-- ==== Sys2Proof/Word.lean ====
section
/-! DEFINITION. The word and byte types of ARXH (00_scope.md R10, R11). -/

namespace Sys2Proof

/-- A 64-bit word: the width of every register, of the data bus and of a command word (R7, R8). -/
abbrev Word := BitVec 64

/-- One byte of a message, of a digest or of a register's eight lanes (R52). -/
abbrev Byte := BitVec 8

end Sys2Proof
end

