-- ==== Sys2Proof/Syntax.lean ====
section
/-! DEFINITION. The command set (30_encoding.md R73) and the assembler's source commands (R80). -/

namespace Sys2Proof

/-- The six hash variants, numbered as the source numbers them (00_scope.md R3). -/
inductive Variant where
  | v1 | v2 | v3 | v4 | v5 | v6
  deriving DecidableEq, Repr

/-- A command: one constructor per row of spec/opcode_table.json. The six `start` rows are one opcode with six
legal `ARG` values, each listed as its own command (R73). -/
inductive Instr where
  /-- NOP, R105. -/
  | nop
  /-- MIX with its round count `ARG`, 0 to 255, unsigned (R72, R104). -/
  | mix (n : BitVec 8)
  /-- START of variant 1, R127 and R121. -/
  | startV1
  /-- START of variant 2, R127 and R122. -/
  | startV2
  /-- START of variant 3, R127 and R123. -/
  | startV3
  /-- START of variant 4, R127 and R124. -/
  | startV4
  /-- START of variant 5, R127 and R125. -/
  | startV5
  /-- START of variant 6, R127 and R126. -/
  | startV6
  /-- BLOCK, R129. -/
  | block
  /-- FINISH, R131. -/
  | finish
  /-- ABORT, R135. -/
  | abort
  deriving DecidableEq, Repr

/-- The START command of a variant. -/
def Variant.startCommand : Variant → Instr
  | .v1 => .startV1
  | .v2 => .startV2
  | .v3 => .startV3
  | .v4 => .startV4
  | .v5 => .startV5
  | .v6 => .startV6

/-- A command as an assembler reads it (R80): the numbers are as written, so they may be out of range. -/
inductive SourceCommand where
  | nop
  | mix (n : Nat)
  | start (k : Nat)
  | block
  | finish
  | abort
  deriving DecidableEq, Repr

end Sys2Proof
end

