-- ==== Sys2Proof/Config.lean ====
section
/-! DEFINITION. What this spec leaves open: the platform's base address, the latency of an operation and the values a
host reads while the block is busy (00_scope.md R9; 93_implementation_defined.md U2, U4, U5). None has a body, so
nothing proved about the model rests on a value of one. The numeric literals that the spec fixes stand in
Sys2Proof/Machine/Parameters.lean, under the same name space. -/

namespace Sys2Proof

/-- The order of the bytes of a chunk word and of a digest word (R52, decisions D3 and D4). -/
inductive ByteOrder where
  | little
  | big
  deriving DecidableEq, Repr

/-- `BASE`, the platform address of the register window: open (R9, R50, D33; log entry 4). -/
opaque Config.base : Nat

/-- `LAT`: for how many steps of the machine an accepted operation keeps the block busy. Any finite number, chosen per
operation (R9, R185, U4, D20; log entry 2). The argument is the state's draw counter. -/
opaque Config.latency : Nat → Nat

/-- What a read of an unspecified register or field returns while `BUSY = 1`: a fresh draw for each read (R56, R184, U2;
log entry 1). The argument is the state's draw counter. -/
opaque Config.freeWord : Nat → Word

end Sys2Proof
end

