-- ==== Sys2Proof/Machine/Parameters.lean ====
section
/-! DEFINITION. The parameters that the spec fixes, each a named constant so that a correction of an unaudited literal
changes one place (00_scope.md R7, R8; 41_hash_wrapper.md R120; decisions D3, D5, D6, D22, D25). -/

namespace Sys2Proof

/-- `ROT_TABLE`, entry 0 first: the rotation ROM (R7, R35). -/
def Config.rotTable : List Nat := [12, 39, 21, 13, 32, 11, 24, 53, 17, 27, 57, 13, 50, 8, 52, 8]

/-- `ROT_N`: entries of the rotation table (R7). -/
def Config.rotN : Nat := 16

/-- `SEED_ROUNDS` (R7). -/
def Config.seedRounds : Nat := 12

/-- Rounds run on `(0, 0)` where seeding is disabled: none (R128, decision D6). -/
def Config.seedRoundsWhenDisabled : Nat := 0

/-- `FINAL_ROUNDS` (R7). -/
def Config.finalRounds : Nat := 12

/-- `COLLAPSE_ROUNDS` (R7). -/
def Config.collapseRounds : Nat := 12

/-- The round index at which the collapse mix starts: 0, a separate invocation (R133, decision D25). -/
def Config.collapseIndexStart : Nat := 0

/-- `BLOCK_BYTES`: bytes of one chunk (R7). -/
def Config.blockBytes : Nat := 16

/-- `BLOCK_ROUNDS[v]` (R7, R120). -/
def Config.blockRounds : Variant → Nat
  | .v1 => 0
  | .v2 => 0
  | .v3 => 12
  | .v4 => 4
  | .v5 => 5
  | .v6 => 5

/-- `FOLD[v]`: is the length folded into `a` before the final mix (R7, R120). -/
def Config.fold : Variant → Bool
  | .v1 => false
  | .v2 => true
  | .v3 => true
  | .v4 => true
  | .v5 => true
  | .v6 => true

/-- `COLLAPSE[v]`: is the final mix followed by `b = 0` and another mix (R7, R120). -/
def Config.collapse : Variant → Bool
  | .v1 => false
  | .v2 => false
  | .v3 => false
  | .v4 => false
  | .v5 => false
  | .v6 => true

/-- `MIX_MAX`: the largest round count of one MIX command (R8, decision D10). -/
def Config.mixMax : Nat := 255

/-- The largest variant number (R72). -/
def Config.variantMax : Nat := 6

/-- Bytes of the register window, `WIN` (R8, R50). -/
def Config.windowBytes : Nat := 256

/-- Bytes of the only legal access, `BUS_W` in bytes (R8, R55). -/
def Config.accessBytes : BitVec 8 := 8

/-- What `ID` reads (R21). -/
def Config.idWord : Word := 0x0000000148585241

/-- The byte order: little-endian, fixed (R52, decisions D3 and D4). -/
def Config.byteOrder : ByteOrder := .little

end Sys2Proof
end

