-- ==== Sys2Proof/WellFormed.lean ====
section
/-! DEFINITION. Which commands, which source commands and which command words have the form the spec gives them. The decoder is
written apart from the check on words. -/

namespace Sys2Proof

/-- A command is well formed when its operand is in the encoding's range (30_encoding.md R72). The operand's type
already keeps it there, so this check refuses no term. -/
def Instr.wellFormed : Instr → Bool
  | .mix n => n.toNat ≤ Config.mixMax
  | .nop | .startV1 | .startV2 | .startV3 | .startV4 | .startV5 | .startV6 | .block | .finish | .abort => true

/-- What the assembler accepts: it rejects a `mix` count outside 0..255 and a variant outside 1..6 (R80). -/
def SourceCommand.wellFormed : SourceCommand → Bool
  | .mix n => n ≤ Config.mixMax
  | .start k => 1 ≤ k && k ≤ Config.variantMax
  | .nop | .block | .finish | .abort => true

/-- A command word is legal when none of the four cases of 60_exceptions.md R152 holds. -/
def commandWordLegal (w : Word) : Bool :=
  (w >>> 16 == 0) &&
  (w &&& 0xFF).toNat ≤ 5 &&
  ((w &&& 0xFF != 0x02) || (1 ≤ ((w >>> 8) &&& 0xFF).toNat && ((w >>> 8) &&& 0xFF).toNat ≤ Config.variantMax)) &&
  ((w &&& 0xFF == 0x01) || (w &&& 0xFF == 0x02) || ((w >>> 8) &&& 0xFF == 0))

end Sys2Proof
end

