-- ==== Sys2Proof/Decode.lean ====
section
/-! DEFINITION. Byte order of a bus word, the decoder of command words (30_encoding.md R70 to R79), total and rejecting
by name, the encoder written from the same table (R73), the table as mask and match rows, and the assembler (R80). -/

namespace Sys2Proof

/-- `LE64`: byte `j` becomes bits `[8j+7:8j]`; missing bytes count as 0 (00_scope.md R13, 20_memory.md R52). -/
def le64 : List Byte → Word
  | [] => 0
  | b :: rest => b.setWidth 64 ||| (le64 rest <<< 8)

/-- Lane `j` of a register: its bits `[8j+7:8j]` (R52). -/
def byteLane (w : Word) (j : Nat) : Byte := w.extractLsb' (8 * j) 8

/-- The eight lanes of a word, lane 0 first (R52). -/
def bytesLE (w : Word) : List Byte := (List.range 8).map (byteLane w)

/-- `OP`, bits 7:0 of a command word (R71). -/
def opField (w : Word) : BitVec 8 := w.extractLsb' 0 8

/-- `ARG`, bits 15:8 of a command word (R71). -/
def argField (w : Word) : BitVec 8 := w.extractLsb' 8 8

/-- `RSV`, bits 63:16 of a command word (R71). -/
def rsvField (w : Word) : BitVec 48 := w.extractLsb' 16 48

/-- Why a command word is illegal. -/
inductive IllegalWord where
  /-- `RSV != 0` (R75). -/
  | reservedBits
  /-- `OP` in 0x06..0xFF (R74). -/
  | reservedOpcode
  /-- `ARG` outside the range its opcode allows (R76). -/
  | badArgument
  /-- Not the eight bytes of a command word (R70); no word gives this. -/
  | notEightBytes
  deriving DecidableEq, Repr

/-- What the decoder answers. -/
inductive Decoded where
  | command (i : Instr)
  | illegal (why : IllegalWord)
  deriving DecidableEq, Repr

/-- The command a decoding names, if it is legal. -/
def Decoded.toOption : Decoded → Option Instr
  | .command i => some i
  | .illegal _ => none

/-- An opcode whose `ARG` must be 0 (R72, R76). -/
def decodeNoArg (i : Instr) (arg : BitVec 8) : Decoded :=
  if arg = 0 then .command i else .illegal .badArgument

/-- START's `ARG`, the variant number 1 to 6 (R72, R76). -/
def decodeStart (arg : BitVec 8) : Decoded :=
  match arg.toNat with
  | 1 => .command .startV1
  | 2 => .command .startV2
  | 3 => .command .startV3
  | 4 => .command .startV4
  | 5 => .command .startV5
  | 6 => .command .startV6
  | _ => .illegal .badArgument

/-- `Decode(w)` of R79, total on every 64-bit word. -/
def decode (w : Word) : Decoded :=
  if rsvField w ≠ 0 then .illegal .reservedBits
  else
    match (opField w).toNat with
    | 0 => decodeNoArg .nop (argField w)
    | 1 => .command (.mix (argField w))
    | 2 => decodeStart (argField w)
    | 3 => decodeNoArg .block (argField w)
    | 4 => decodeNoArg .finish (argField w)
    | 5 => decodeNoArg .abort (argField w)
    | _ => .illegal .reservedOpcode

/-- The decoder on bytes, lowest lane first: a command word is exactly eight bytes (R52, R70). -/
def decodeBytes (bs : List Byte) : Decoded :=
  if bs.length = 8 then decode (le64 bs) else .illegal .notEightBytes

/-- The bus word whose bits are `w`, numbered as spec/opcode_table.json numbers them; the bits from `nbits` up are 0. -/
def tableWord (nbits w : Nat) : Word := BitVec.ofNat 64 (w % 2 ^ nbits)

/-- The command the decoder reads from a word of spec/opcode_table.json. -/
def decodeTableWord (nbits w : Nat) : Option Instr :=
  (decodeBytes (bytesLE (tableWord nbits w))).toOption

/-- The command word with the given `ARG` and `OP`, and `RSV = 0` (R71). -/
def commandWord (op arg : BitVec 8) : Word := (0 : BitVec 48) ++ (arg ++ op)

/-- The command word of a command (R73). -/
def encode : Instr → Word
  | .nop => commandWord 0x00 0
  | .mix n => commandWord 0x01 n
  | .startV1 => commandWord 0x02 1
  | .startV2 => commandWord 0x02 2
  | .startV3 => commandWord 0x02 3
  | .startV4 => commandWord 0x02 4
  | .startV5 => commandWord 0x02 5
  | .startV6 => commandWord 0x02 6
  | .block => commandWord 0x03 0
  | .finish => commandWord 0x04 0
  | .abort => commandWord 0x05 0

/-- One row of the opcode table: a word belongs to the row when `word & mask = pattern` (R73). -/
structure OpcodeRow where
  mnemonic : String
  pattern : Word
  mask : Word
  deriving DecidableEq, Repr

/-- Does a word belong to a row. -/
def OpcodeRow.holds (r : OpcodeRow) (w : Word) : Bool := w &&& r.mask == r.pattern

/-- The opcode table of R73 as pattern and mask pairs. -/
def opcodeTable : List OpcodeRow :=
  [ ⟨"nop", 0x0000, 0xFFFFFFFFFFFFFFFF⟩, ⟨"mix", 0x0001, 0xFFFFFFFFFFFF00FF⟩,
    ⟨"start_v1", 0x0102, 0xFFFFFFFFFFFFFFFF⟩, ⟨"start_v2", 0x0202, 0xFFFFFFFFFFFFFFFF⟩,
    ⟨"start_v3", 0x0302, 0xFFFFFFFFFFFFFFFF⟩, ⟨"start_v4", 0x0402, 0xFFFFFFFFFFFFFFFF⟩ ] ++
  [ ⟨"start_v5", 0x0502, 0xFFFFFFFFFFFFFFFF⟩, ⟨"start_v6", 0x0602, 0xFFFFFFFFFFFFFFFF⟩,
    ⟨"block", 0x0003, 0xFFFFFFFFFFFFFFFF⟩, ⟨"finish", 0x0004, 0xFFFFFFFFFFFFFFFF⟩,
    ⟨"abort", 0x0005, 0xFFFFFFFFFFFFFFFF⟩ ]

/-- The command a well-formed source command names. -/
def SourceCommand.toInstr : SourceCommand → Option Instr
  | .nop => some .nop
  | .mix n => if n ≤ Config.mixMax then some (.mix (BitVec.ofNat 8 n)) else none
  | .start k => (decodeStart (BitVec.ofNat 8 k)).toOption
  | .block => some .block
  | .finish => some .finish
  | .abort => some .abort

/-- The assembler: the command word of R73, or a rejection (R80). -/
def assemble (c : SourceCommand) : Option Word :=
  if c.wellFormed then c.toInstr.map encode else none

end Sys2Proof
end

