-- ==== Sys2Proof/Machine/Arx.lean ====
section
/-! DEFINITION. The ARX mixing primitive (40_arx_primitive.md R100 to R102). -/

namespace Sys2Proof.Machine

/-- Rotate left by `r` places, `0 <= r <= 63` (00_scope.md R12). -/
def rotl64 (x : Word) (r : Nat) : Word :=
  if r = 0 then x else (x <<< r) ||| (x >>> (64 - r))

/-- `ROT[i mod 16]`, the rotation amount of round index `i` (R35, R100). -/
def rotAmount (i : Nat) : Nat := Config.rotTable.getD (i % Config.rotN) 0

/-- One round with index `i`: the sum first, then the old `b` rotated and xored with the new `a` (R100). -/
def arxRound (ab : Word × Word) (i : Nat) : Word × Word :=
  let a := ab.1 + ab.2 + 1
  (a, rotl64 ab.2 (rotAmount i) ^^^ a)

/-- `n` rounds with indices `i`, `i + 1`, and so on. -/
def mixFrom : Nat → Nat → Word × Word → Word × Word
  | _, 0, ab => ab
  | i, n + 1, ab => mixFrom (i + 1) n (arxRound ab i)

/-- The mixing primitive: `n` rounds, the index starting at 0 (R101, R102). -/
def mix (a b : Word) (n : Nat) : Word × Word := mixFrom 0 n (a, b)

end Sys2Proof.Machine
end

