-- ==== Sys2Proof/Machine/State.lean ====
section
/-! DEFINITION. The state of ARXH (10_state.md), of its host port (20_memory.md R60, 70_reset_and_hazards.md R180), and the
reasons a step can stop. All of it is plain data. -/

namespace Sys2Proof.Machine

/-- The wrapper's phase together with the variant latch `VAR_L` (R24, R25). `VAR_L` is 0 exactly in `IDLE` and is the
variant of START in `ABSORB` and `DONE`, so the phase carries it; Operands.lean reads the two apart (log entry 6). -/
inductive Wrapper where
  /-- No hash in progress; `VAR_L = 0`. -/
  | idle
  /-- A hash of the variant was started and awaits BLOCK or FINISH. -/
  | absorb (v : Variant)
  /-- A hash of the variant finished and its digest is in `OUT0` and `OUT1`. -/
  | done (v : Variant)
  deriving DecidableEq, Repr

/-- The error causes (R27, 60_exceptions.md R151). -/
inductive Cause where
  | illegalCmd
  | sequence
  | busyCmd
  | busyWrite
  | access
  deriving DecidableEq, Repr

/-- What the first error since the last clear recorded (R27, R37): `ECAUSE` and `ERRINFO`. -/
structure ErrorRecord where
  cause : Cause
  info : Word
  deriving DecidableEq, Repr

/-- An accepted command with the operands it sampled at acceptance (R41, R43). -/
inductive Operation where
  | nop
  /-- MIX samples `A` and `B`. -/
  | mix (n : BitVec 8) (a b : Word)
  /-- START samples `CTRL.USE_SEED`, `SEED[31:0]` and `LEN`. -/
  | start (v : Variant) (useSeed : Bool) (seed : BitVec 32) (len : Word)
  /-- BLOCK samples `DIN0`, `DIN1`, `REMAIN`, `VAR_L`, `A` and `B`. -/
  | block (din0 din1 remain : Word) (v : Variant) (a b : Word)
  /-- FINISH samples `LENL`, `VAR_L`, `A` and `B`. -/
  | finish (lenl : Word) (v : Variant) (a b : Word)
  | abort
  deriving DecidableEq, Repr

/-- The operation in progress, and for how many more steps the block stays busy with it before it completes (R41, R26). -/
structure Pending where
  op : Operation
  left : Nat
  deriving DecidableEq, Repr

/-- One bus transaction on the register window: offset, size in bytes and, for a write, its data (R14, R56, R57). -/
inductive Transaction where
  | read (off size : BitVec 8)
  | write (off size : BitVec 8) (data : Word)
  deriving DecidableEq, Repr

/-- What the host does at the port, one at a time and in this order (R60). -/
inductive HostAction where
  /-- One bus transaction. -/
  | access (t : Transaction)
  /-- Read `STATUS` again and again until bit 0 of what it returns is 0 (R62, R82). -/
  | poll
  /-- The reset input is asserted (R180). -/
  | assertReset
  /-- The reset input is released (R180). -/
  | releaseReset
  deriving DecidableEq, Repr

/-- The port's response to a transaction: the data of a read, and the error indication (R55, R156). -/
inductive Response where
  | readData (data : Word) (error : Bool)
  | written (error : Bool)
  deriving DecidableEq, Repr

/-- Why the machine stops. -/
inductive Fault where
  /-- Raised by the host port alone, for a transaction while reset is asserted: "Host transactions during reset get no
  response, and the host may not issue them" (R180, U11). Safe: the model stops and says nothing of what follows. -/
  | transactionDuringReset
  deriving DecidableEq, Repr

/-- Why a step has no meaning. -/
inductive Refusal where
  /-- Raised by an arm of `exec` whose command has no meaning yet; no arm raises it. Safe: the model stops. -/
  | notModelled (mnemonic : String)
  deriving DecidableEq, Repr

/-- The state of the block and of its port. The rotation ROM, `ID`, `ROT0` and `ROT1` are constants (R21, R35, R36), `CMD`
holds no state (R32), and the round index and the intermediate words of a mix live inside `mixFrom` (R41). -/
structure State where
  /-- Register `A` (R20). -/
  a : Word
  /-- Register `B` (R20). -/
  b : Word
  /-- `CTRL.USE_SEED`; the register's other bits read as 0 (R22). -/
  useSeed : Bool
  /-- `STATUS.PHASE` and `VAR_L`, shown as `STATUS.VARIANT` (R24, R25). -/
  wrapper : Wrapper
  /-- `STATUS.ERR`, `STATUS.ECAUSE` and `ERRINFO`: none when `ERR = 0` (R27, R37). -/
  error : Option ErrorRecord
  /-- `SEED[31:0]`; the register's other bits read as 0 (R29). -/
  seed : BitVec 32
  /-- `LEN` (R30). -/
  len : Word
  /-- `DIN0` (R31). -/
  din0 : Word
  /-- `DIN1` (R31). -/
  din1 : Word
  /-- `OUT0` (R33). -/
  out0 : Word
  /-- `OUT1` (R33). -/
  out1 : Word
  /-- `REMAIN` (R34). -/
  remain : Word
  /-- `LENL` (R34). -/
  lenl : Word
  /-- The pending operation (R41); `STATUS.BUSY = 1` exactly when there is one. -/
  pending : Option Pending
  /-- Is the reset input asserted (R180). -/
  inReset : Bool
  /-- The port: what the host does next, oldest first (R60). The model's own field. -/
  requests : List HostAction
  /-- The port: the response to the last transaction. The model's own field. -/
  response : Option Response
  /-- How many free values have been drawn; the next draw's index. The model's own field (log entries 1 and 2). -/
  draws : Nat
  /-- `LAT` as an argument: the busy times of the next operations, the next one first; where the list has ended, the
  time is drawn from `Config.latency`. The model's own field (log entry 2). -/
  latencies : List Nat
  deriving DecidableEq, Repr

/-- The machine right after reset (R45, R180), with nothing asked of the port. -/
def State.reset : State where
  a := 0
  b := 0
  useSeed := true
  wrapper := .idle
  error := none
  seed := 0
  len := 0
  din0 := 0
  din1 := 0
  out0 := 0
  out1 := 0
  remain := 0
  lenl := 0
  pending := none
  inReset := false
  requests := []
  response := none
  draws := 0
  latencies := []

end Sys2Proof.Machine
end

