-- ==== Sys2Proof/Machine/Flags.lean ====
section
/-! DEFINITION. The fields of `STATUS` and the format of `ERRINFO` (10_state.md R23 to R27, 60_exceptions.md R151, R157).
ARXH has no arithmetic flags (R40). -/

namespace Sys2Proof.Machine

/-- `STATUS.BUSY`: 1 exactly when an operation is pending (R26, R41). -/
def State.busy (s : State) : Bool := s.pending.isSome

/-- `STATUS.PHASE` (R24). -/
def Wrapper.phaseCode : Wrapper → BitVec 2
  | .idle => 0
  | .absorb _ => 1
  | .done _ => 2

/-- A variant's number (00_scope.md R3). -/
def variantNumber : Variant → BitVec 3
  | .v1 => 1
  | .v2 => 2
  | .v3 => 3
  | .v4 => 4
  | .v5 => 5
  | .v6 => 6

/-- `VAR_L`, as `STATUS.VARIANT` shows it (R25). -/
def Wrapper.variantCode : Wrapper → BitVec 3
  | .idle => 0
  | .absorb v => variantNumber v
  | .done v => variantNumber v

/-- `STATUS.ECAUSE` of a cause (R27, R151). -/
def Cause.code : Cause → BitVec 4
  | .illegalCmd => 1
  | .sequence => 2
  | .busyCmd => 3
  | .busyWrite => 4
  | .access => 5

/-- `STATUS.ECAUSE` (R27). -/
def causeCode : Option ErrorRecord → BitVec 4
  | none => 0
  | some e => e.cause.code

/-- `ERRINFO` (R37). -/
def errorInfo : Option ErrorRecord → Word
  | none => 0
  | some e => e.info

/-- The layout of `STATUS`: bit 0 BUSY, bits 2:1 PHASE, bits 6:4 VARIANT, bit 8 ERR, bits 15:12 ECAUSE, all others 0 (R23). -/
def packStatus (busy : Bool) (phase : BitVec 2) (variant : BitVec 3) (err : Bool) (ecause : BitVec 4) : Word :=
  (0 : BitVec 48) ++ ecause ++ (0 : BitVec 3) ++ BitVec.ofBool err ++ (0 : BitVec 1) ++ variant ++ (0 : BitVec 1) ++
    phase ++ BitVec.ofBool busy

/-- What `STATUS` reads while not busy (R23). -/
def statusWord (s : State) : Word :=
  packStatus s.busy s.wrapper.phaseCode s.wrapper.variantCode s.error.isSome (causeCode s.error)

/-- What `STATUS` reads while busy: PHASE and VARIANT come from the draw's bits 2:1 and 6:4, the rest is exact (R56, R184). -/
def statusWordDrawn (draw : Word) (s : State) : Word :=
  packStatus s.busy (draw.extractLsb' 1 2) (draw.extractLsb' 4 3) s.error.isSome (causeCode s.error)

/-- Does a write to `STATUS` clear the error record: bit 8 of the written word (R28). -/
def clearsError (v : Word) : Bool := v.getLsbD 8

/-- `ERRINFO` of an `ACCESS` error: offset in bits 7:0, size in bits 15:8, bit 16 set for a write (R157). -/
def accessInfo (isWrite : Bool) (off size : BitVec 8) : Word :=
  (0 : BitVec 47) ++ BitVec.ofBool isWrite ++ size ++ off

/-- `ERRINFO` of a `BUSY_WRITE` error: the offset, zero-extended (R157). -/
def offsetInfo (off : BitVec 8) : Word := off.setWidth 64

end Sys2Proof.Machine
end

