-- ==== Sys2Proof/Machine/Operands.lean ====
section
/-! DEFINITION. The register window (20_memory.md R50, R51, R56, R57): which register an offset names, what it reads, what
a write stores; and the operands a command samples at acceptance (10_state.md R43). -/

namespace Sys2Proof.Machine

/-- The registers of the window (R51). -/
inductive Reg where
  | id | ctrl | status | seed | len | din0 | din1 | cmd | a | b | out0 | out1 | remain | lenl | rot0 | rot1 | errinfo
  deriving DecidableEq, Repr

/-- A register's offset in the window (R51). -/
def Reg.offset : Reg → BitVec 8
  | .id => 0x00
  | .ctrl => 0x08
  | .status => 0x10
  | .seed => 0x18
  | .len => 0x20
  | .din0 => 0x28
  | .din1 => 0x30
  | .cmd => 0x38
  | .a => 0x40
  | .b => 0x48
  | .out0 => 0x50
  | .out1 => 0x58
  | .remain => 0x60
  | .lenl => 0x68
  | .rot0 => 0x70
  | .rot1 => 0x78
  | .errinfo => 0x80

/-- The register at an offset; none at the reserved offsets 0x88 to 0xF8, and none between registers (R38, R51). -/
def regAt (off : BitVec 8) : Option Reg :=
  match off.toNat with
  | 0x00 => some .id
  | 0x08 => some .ctrl
  | 0x10 => some .status
  | 0x18 => some .seed
  | 0x20 => some .len
  | 0x28 => some .din0
  | 0x30 => some .din1
  | 0x38 => some .cmd
  | 0x40 => some .a
  | 0x48 => some .b
  | 0x50 => some .out0
  | 0x58 => some .out1
  | 0x60 => some .remain
  | 0x68 => some .lenl
  | 0x70 => some .rot0
  | 0x78 => some .rot1
  | 0x80 => some .errinfo
  | _ => none

/-- The only legal bus access: 8 bytes at an offset that is a multiple of 8 (20_memory.md R55). -/
def accessWellFormed (off size : BitVec 8) : Bool :=
  size == Config.accessBytes && off.toNat % 8 == 0

/-- The offset of a platform address that falls in the window mapped at `BASE` (R9, R50); none outside it. -/
def windowOffset (address : Nat) : Option (BitVec 8) :=
  if Config.base ≤ address ∧ address < Config.base + Config.windowBytes then
    some (BitVec.ofNat 8 (address - Config.base))
  else none

/-- Eight entries of the rotation ROM from entry `first` on, one a byte lane (R36). -/
def romWord (first : Nat) : Word :=
  le64 ((List.range 8).map fun j => BitVec.ofNat 8 (rotAmount (first + j)))

/-- What a register reads while not busy (R21 to R37); `CMD` reads 0 (R32). -/
def readReg (r : Reg) (s : State) : Word :=
  match r with
  | .id => Config.idWord
  | .ctrl => (BitVec.ofBool s.useSeed).setWidth 64
  | .status => statusWord s
  | .seed => s.seed.setWidth 64
  | .len => s.len
  | .din0 => s.din0
  | .din1 => s.din1
  | .cmd => 0
  | .a => s.a
  | .b => s.b
  | .out0 => s.out0
  | .out1 => s.out1
  | .remain => s.remain
  | .lenl => s.lenl
  | .rot0 => romWord 0
  | .rot1 => romWord 8
  | .errinfo => errorInfo s.error

/-- What a read of a register returns while busy, given a fresh draw; none where the read is exact (R56, R184). -/
def readWhileBusy (r : Reg) (draw : Word) (s : State) : Option Word :=
  match r with
  | .a | .b | .out0 | .out1 | .remain | .lenl => some draw
  | .status => some (statusWordDrawn draw s)
  | .id | .ctrl | .seed | .len | .din0 | .din1 | .cmd | .rot0 | .rot1 | .errinfo => none

/-- What a write stores in a register while not busy (R57). A read-only register ignores it (R38); `STATUS` and `CMD` are
written elsewhere, in Ops.lean and Port.lean. -/
def storeReg (r : Reg) (v : Word) (s : State) : State :=
  match r with
  | .ctrl => { s with useSeed := v.getLsbD 0 }
  | .seed => { s with seed := v.setWidth 32 }
  | .len => { s with len := v }
  | .din0 => { s with din0 := v }
  | .din1 => { s with din1 := v }
  | .a => { s with a := v }
  | .b => { s with b := v }
  | .id | .status | .cmd | .out0 | .out1 | .remain | .lenl | .rot0 | .rot1 | .errinfo => s

/-- NOP has no operands (R105). -/
def sampleNop (_s : State) : Option Operation := some .nop

/-- MIX samples `A` and `B` (R43). -/
def sampleMix (n : BitVec 8) (s : State) : Option Operation := some (.mix n s.a s.b)

/-- START samples `CTRL.USE_SEED`, `SEED[31:0]` and `LEN` (R43). -/
def sampleStart (v : Variant) (s : State) : Option Operation := some (.start v s.useSeed s.seed s.len)

/-- BLOCK samples `DIN0`, `DIN1`, `REMAIN`, `VAR_L`, `A` and `B`; none unless `PHASE = ABSORB` and `REMAIN > 0` (R43, R129). -/
def sampleBlock (s : State) : Option Operation :=
  match s.wrapper with
  | .absorb v => if s.remain = 0 then none else some (.block s.din0 s.din1 s.remain v s.a s.b)
  | .idle => none
  | .done _ => none

/-- FINISH samples `LENL`, `VAR_L`, `A` and `B`; none unless `PHASE = ABSORB` and `REMAIN = 0` (R43, R131). -/
def sampleFinish (s : State) : Option Operation :=
  match s.wrapper with
  | .absorb v => if s.remain = 0 then some (.finish s.lenl v s.a s.b) else none
  | .idle => none
  | .done _ => none

/-- ABORT has no operands (R135). -/
def sampleAbort (_s : State) : Option Operation := some .abort

end Sys2Proof.Machine
end

