-- ==== Sys2Proof/Machine/Ops.lean ====
section
/-! DEFINITION. The shared operations: recording an error and clearing the record (ARXH's exceptions, 60_exceptions.md R155,
R159, R160), the issue and acceptance of a command (30_encoding.md R79), the port's response, the reset input. -/

namespace Sys2Proof.Machine

/-- `raise Error(cause, info)`: the first error since the last clear is recorded, a later one is not; nothing else changes
(R155, R159, R161). This is ARXH's whole exception entry: no trap, no saved pc, no mode, no vector. -/
def raiseError (cause : Cause) (info : Word) (s : State) : State :=
  match s.error with
  | none => { s with error := some ⟨cause, info⟩ }
  | some _ => s

/-- The return from an error: `ERR`, `ECAUSE` and `ERRINFO` become 0 (R28, R160). -/
def clearError (s : State) : State := { s with error := none }

/-- The port answers the transaction in progress. -/
def respond (r : Response) (s : State) : State := { s with response := some r }

/-- The busy time of the next operation: the next argument `LAT`, or a free draw (R9, R26, D20). -/
def nextLatency (s : State) : Nat := s.latencies.headD (Config.latency s.draws)

/-- Acceptance: `BUSY <- 1; pending <- (d, sampled operands)` (R79), for a busy time of its own. -/
def accept (op : Operation) (s : State) : State :=
  { s with pending := some ⟨op, nextLatency s⟩, latencies := s.latencies.tail, draws := s.draws + 1 }

/-- The issue of command `i`, whose sampled operands are `op?`, or none where its sequence check fails: `BUSY_CMD` while busy,
else `SEQUENCE` where the check fails, else the command is accepted (R154, R153, R158, R79). -/
def issue (i : Instr) (op? : Option Operation) (s : State) : Host.Outcome State Fault Refusal :=
  if s.busy then .next (raiseError .busyCmd (encode i) s)
  else
    match op? with
    | none => .next (raiseError .sequence (encode i) s)
    | some op => .next (accept op s)

/-- The reset input is asserted: every register takes its reset value and any operation is abandoned (R180). The port's
queue and the free values are the host's and the environment's, so they stay. -/
def assertReset (s : State) : State :=
  { State.reset with inReset := true, requests := s.requests, draws := s.draws, latencies := s.latencies }

/-- The reset input is released (R180). -/
def releaseReset (s : State) : State := { s with inReset := false }

end Sys2Proof.Machine
end

