-- ==== Sys2Proof/Machine/Primitive.lean ====
section
/-! DEFINITION. The commands of the primitive family, NOP and MIX (40_arx_primitive.md R104, R105): what the host's write of the
command does, and what its operation writes at completion. -/

namespace Sys2Proof.Machine

/-- NOP at completion: nothing (R105). -/
def completeNop (s : State) : State := s

/-- MIX at completion: `(A, B) <- mix(A, B, n)` (R104). -/
def completeMix (n : BitVec 8) (a b : Word) (s : State) : State :=
  { s with a := (mix a b n.toNat).1, b := (mix a b n.toNat).2 }

/-- NOP, R105. -/
def execNop (s : State) : Host.Outcome State Fault Refusal := issue .nop (sampleNop s) s

/-- MIX, R104. -/
def execMix (n : BitVec 8) (s : State) : Host.Outcome State Fault Refusal := issue (.mix n) (sampleMix n s) s

end Sys2Proof.Machine
end

