-- ==== Sys2Proof/Machine/Wrapper.lean ====
section
/-! DEFINITION. The hash-variant wrapper: START, BLOCK, FINISH and ABORT (41_hash_wrapper.md R120 to R136): what the host's
write of the command does, and what its operation writes at completion. -/

namespace Sys2Proof.Machine

/-- Seed injection: `mix(zext_64(seed), 0, 12)` with seeding enabled, `(0, 0)` and no rounds with seeding disabled (R127, R128). -/
def seedState (useSeed : Bool) (seed : BitVec 32) : Word × Word :=
  if useSeed then mix (seed.setWidth 64) 0 Config.seedRounds else mix 0 0 Config.seedRoundsWhenDisabled

/-- The chunk mask: byte `t` of the chunk is kept exactly when `t < k` (R130). -/
def chunkMask (k : Nat) : Word × Word :=
  ( if 8 ≤ k then 0xFFFFFFFFFFFFFFFF else (1#64 <<< (8 * k)) - 1,
    if 16 ≤ k then 0xFFFFFFFFFFFFFFFF else if k ≤ 8 then 0 else (1#64 <<< (8 * (k - 8))) - 1 )

/-- The size of the next chunk, `min(REMAIN, 16)` (R129). -/
def chunkSize (remain : Word) : Nat := min remain.toNat Config.blockBytes

/-- Absorption of one chunk and the per-block mix of the variant, one invocation from index 0 (R129). -/
def absorbWords (v : Variant) (a b w0 w1 : Word) : Word × Word := mix (a ^^^ w0) (b ^^^ w1) (Config.blockRounds v)

/-- The length fold of variants 2 to 6 (R132). -/
def foldLength (v : Variant) (lenl a : Word) : Word := if Config.fold v then a ^^^ lenl else a

/-- The collapse of variant 6: `b <- 0`, then another mix whose index starts again at 0 (R133). -/
def collapsePair (v : Variant) (ab : Word × Word) : Word × Word :=
  if Config.collapse v then mixFrom Config.collapseIndexStart Config.collapseRounds (ab.1, 0) else ab

/-- The length fold, the final mix and the collapse (R131). -/
def finalizePair (v : Variant) (lenl a b : Word) : Word × Word :=
  collapsePair v (mix (foldLength v lenl a) b Config.finalRounds)

/-- START at completion (R127). -/
def completeStart (v : Variant) (useSeed : Bool) (seed : BitVec 32) (len : Word) (s : State) : State :=
  { s with
    lenl := len
    remain := len
    a := (seedState useSeed seed).1
    b := (seedState useSeed seed).2
    wrapper := .absorb v }

/-- BLOCK at completion (R129). -/
def completeBlock (din0 din1 remain : Word) (v : Variant) (a b : Word) (s : State) : State :=
  let k := chunkSize remain
  let ab := absorbWords v a b (din0 &&& (chunkMask k).1) (din1 &&& (chunkMask k).2)
  { s with a := ab.1, b := ab.2, remain := remain - BitVec.ofNat 64 k }

/-- FINISH at completion (R131, R134). -/
def completeFinish (lenl : Word) (v : Variant) (a b : Word) (s : State) : State :=
  let ab := finalizePair v lenl a b
  { s with a := ab.1, b := ab.2, out0 := ab.1, out1 := ab.2, wrapper := .done v }

/-- ABORT at completion: `PHASE <- IDLE; VAR_L <- 0; REMAIN <- 0; LENL <- 0` (R135). -/
def completeAbort (s : State) : State := { s with wrapper := .idle, remain := 0, lenl := 0 }

/-- START of variant 1, R127 and R121. -/
def execStartV1 (s : State) : Host.Outcome State Fault Refusal := issue .startV1 (sampleStart .v1 s) s

/-- START of variant 2, R127 and R122. -/
def execStartV2 (s : State) : Host.Outcome State Fault Refusal := issue .startV2 (sampleStart .v2 s) s

/-- START of variant 3, R127 and R123. -/
def execStartV3 (s : State) : Host.Outcome State Fault Refusal := issue .startV3 (sampleStart .v3 s) s

/-- START of variant 4, R127 and R124. -/
def execStartV4 (s : State) : Host.Outcome State Fault Refusal := issue .startV4 (sampleStart .v4 s) s

/-- START of variant 5, R127 and R125. -/
def execStartV5 (s : State) : Host.Outcome State Fault Refusal := issue .startV5 (sampleStart .v5 s) s

/-- START of variant 6, R127 and R126. -/
def execStartV6 (s : State) : Host.Outcome State Fault Refusal := issue .startV6 (sampleStart .v6 s) s

/-- BLOCK, R129. -/
def execBlock (s : State) : Host.Outcome State Fault Refusal := issue .block (sampleBlock s) s

/-- FINISH, R131. -/
def execFinish (s : State) : Host.Outcome State Fault Refusal := issue .finish (sampleFinish s) s

/-- ABORT, R135. -/
def execAbort (s : State) : Host.Outcome State Fault Refusal := issue .abort (sampleAbort s) s

end Sys2Proof.Machine
end

