-- ==== Sys2Proof/Machine/Dispatch.lean ====
section
/-! DEFINITION. The meaning of a command written to `CMD`: one arm per constructor of `Instr`. -/

namespace Sys2Proof.Machine

/-- The command `i`, as the block takes it from a write to `CMD` at state `s`. -/
def exec (i : Instr) (s : State) : Host.Outcome State Fault Refusal :=
  match i with
  | .nop => Sys2Proof.Machine.execNop s
  | .mix n => Sys2Proof.Machine.execMix n s
  | .startV1 => Sys2Proof.Machine.execStartV1 s
  | .startV2 => Sys2Proof.Machine.execStartV2 s
  | .startV3 => Sys2Proof.Machine.execStartV3 s
  | .startV4 => Sys2Proof.Machine.execStartV4 s
  | .startV5 => Sys2Proof.Machine.execStartV5 s
  | .startV6 => Sys2Proof.Machine.execStartV6 s
  | .block => Sys2Proof.Machine.execBlock s
  | .finish => Sys2Proof.Machine.execFinish s
  | .abort => Sys2Proof.Machine.execAbort s

end Sys2Proof.Machine
end

