-- ==== Sys2Proof/Machine/Port.lean ====
section
/-! DEFINITION. The host port: one transaction at a time (20_memory.md R55 to R61), the issue of a command word (30_encoding.md
R79), the completion of an operation (R61), and polling (R82). -/

namespace Sys2Proof.Machine

/-- The completion event: every result of the operation is written and `BUSY <- 0`, at once (R61). -/
def complete (op : Operation) (s : State) : State :=
  let t := { s with pending := none }
  match op with
  | .nop => completeNop t
  | .mix n a b => completeMix n a b t
  | .start v useSeed seed len => completeStart v useSeed seed len t
  | .block din0 din1 remain v a b => completeBlock din0 din1 remain v a b t
  | .finish lenl v a b => completeFinish lenl v a b t
  | .abort => completeAbort t

/-- `MemRead(off, size)` (R56): the state after it, the data and error indication in its response. -/
def memRead (off size : BitVec 8) (s : State) : State :=
  if accessWellFormed off size = false then
    respond (.readData 0 true) (raiseError .access (accessInfo false off size) s)
  else
    match regAt off with
    | none => respond (.readData 0 false) s
    | some r =>
      if s.busy then
        match readWhileBusy r (Config.freeWord s.draws) s with
        | none => respond (.readData (readReg r s) false) s
        | some v => respond (.readData v false) { s with draws := s.draws + 1 }
      else respond (.readData (readReg r s) false) s

/-- A word written to `CMD`: a legal one is the command it encodes, which `exec` issues; an illegal one raises `BUSY_CMD`
while busy and `ILLEGAL_CMD` otherwise (R79, R154, R158). -/
def writeCommand (w : Word) (s : State) : Host.Outcome State Fault Refusal :=
  match decode w with
  | .command i => exec i s
  | .illegal _ => if s.busy then .next (raiseError .busyCmd w s) else .next (raiseError .illegalCmd w s)

/-- A well-formed write to a register or to a reserved offset (R57): `STATUS` first, then the busy check, then the store. -/
def writeWindow (off : BitVec 8) (v : Word) (s : State) : Host.Outcome State Fault Refusal :=
  match regAt off with
  | some .status => .next (if clearsError v then clearError s else s)
  | some .cmd => writeCommand v s
  | some r => if s.busy then .next (raiseError .busyWrite (offsetInfo off) s) else .next (storeReg r v s)
  | none => if s.busy then .next (raiseError .busyWrite (offsetInfo off) s) else .next s

/-- `MemWrite(off, size, v)` (R57). The response stands in the state before the write's own effect, which leaves it alone. -/
def memWrite (off size : BitVec 8) (v : Word) (s : State) : Host.Outcome State Fault Refusal :=
  if accessWellFormed off size = false then
    .next (respond (.written true) (raiseError .access (accessInfo true off size) s))
  else writeWindow off v (respond (.written false) s)

/-- One bus transaction. -/
def transact (t : Transaction) (s : State) : Host.Outcome State Fault Refusal :=
  match t with
  | .read off size => .next (memRead off size s)
  | .write off size data => memWrite off size data s

/-- Does the last response have bit 0 set: the host's test in `poll` (R82). -/
def responseBusyBit (s : State) : Bool :=
  match s.response with
  | some (.readData data _) => data.getLsbD 0
  | some (.written _) => false
  | none => false

/-- One turn of `poll`: a read of `STATUS`, and once more while it shows `BUSY = 1` (R82). -/
def pollOnce (s : State) : State :=
  let t := memRead Reg.status.offset Config.accessBytes s
  if responseBusyBit t then { t with requests := .poll :: t.requests } else t

/-- The host's next action, already taken off the queue. A transaction while reset is asserted stops the machine (R180, U11). -/
def hostActs (action : HostAction) (s : State) : Host.Outcome State Fault Refusal :=
  match action with
  | .access t => if s.inReset then .fault .transactionDuringReset else transact t s
  | .poll => if s.inReset then .fault .transactionDuringReset else .next (pollOnce s)
  | .assertReset => .next (assertReset s)
  | .releaseReset => .next (releaseReset s)

/-- The port serves the oldest host action; with none, the block keeps its state (R60, R167). -/
def servePort (s : State) : Host.Outcome State Fault Refusal :=
  match s.requests with
  | [] => .next s
  | action :: rest => hostActs action { s with requests := rest }

/-- A busy block comes one step nearer to its completion. -/
def tick (p : Pending) (s : State) : State := { s with pending := some { p with left := p.left - 1 } }

/-- One step: an operation whose busy time is over completes; otherwise the port serves one host action, while an operation
in progress runs on (R26, R60, R61). -/
def stepBlock (s : State) : Host.Outcome State Fault Refusal :=
  match s.pending with
  | none => servePort s
  | some p => if p.left = 0 then .next (complete p.op s) else servePort (tick p s)

/-- The host's write of a command word. -/
def commandWrite (w : Word) : HostAction := .access (.write Reg.cmd.offset Config.accessBytes w)

/-- `s` with the host's next action a write of `w` to `CMD`, and the block able to take it: not busy, not in reset. -/
def placeCommand (w : Word) (s : State) : State :=
  { s with pending := none, inReset := false, requests := commandWrite w :: s.requests }

end Sys2Proof.Machine
end

