-- ==== Sys2Proof/Machine/Step.lean ====
section
/-! DEFINITION. One step of the machine. -/

namespace Sys2Proof.Machine

/-- One step: see `stepBlock`. -/
def step (s : State) : Host.Outcome State Fault Refusal := stepBlock s

/-- `s` with the command word `w` of spec/opcode_table.json as the write to `CMD` that the very next step serves. ARXH fetches
nothing (R39, R64): a command is the data of a write to `CMD` (log entry 3). -/
def State.withFetchWord (s : State) (nbits w : Nat) : State := placeCommand (tableWord nbits w) s

end Sys2Proof.Machine
end

