-- ==== Sys2Proof/Machine/Digest.lean ====
section
/-! DEFINITION. The hash the wrapper realises, written on a whole message (41_hash_wrapper.md R137), the chunk and digest byte
order (20_memory.md R53, R54), and the host's pseudo-instructions and driver (30_encoding.md R81, R82; R137). -/

namespace Sys2Proof.Machine

/-- The word of eight message bytes, missing bytes counting as 0 (R52, R53). -/
def chunkWord (bs : List Byte) : Word :=
  match Config.byteOrder with
  | .little => le64 bs
  | .big => le64 ((bs ++ List.replicate (8 - bs.length) 0).reverse)

/-- The eight bytes of a digest word, in order (R54). -/
def digestWordBytes (w : Word) : List Byte :=
  match Config.byteOrder with
  | .little => bytesLE w
  | .big => (bytesLE w).reverse

/-- The 16 bytes of a digest: `OUT0` first, then `OUT1` (R54). -/
def digestBytes (out : Word × Word) : List Byte := digestWordBytes out.1 ++ digestWordBytes out.2

/-- Chunk `m` of a message: up to 16 bytes (R53). -/
def chunkOf (key : List Byte) (m : Nat) : List Byte := (key.drop (16 * m)).take 16

/-- `ceil(L/16)`, the number of chunks (R139). -/
def chunkCount (len : Nat) : Nat := (len + 15) / 16

/-- The accumulator of `H_v` after `m` chunks (R137). -/
def hashAfter (v : Variant) (key : List Byte) (start : Word × Word) : Nat → Word × Word
  | 0 => start
  | m + 1 =>
    let ab := hashAfter v key start m
    absorbWords v ab.1 ab.2 (chunkWord ((chunkOf key m).take 8)) (chunkWord ((chunkOf key m).drop 8))

/-- `H_v(key, L, seed, use_seed)` (R137). -/
def hashOf (v : Variant) (key : List Byte) (seed : BitVec 32) (useSeed : Bool) : Word × Word :=
  let ab := hashAfter v key (seedState useSeed seed) (chunkCount key.length)
  finalizePair v (BitVec.ofNat 64 key.length) ab.1 ab.2

/-- `wr <REG>, <imm64>` (R81). -/
def hostWr (r : Reg) (v : Word) : HostAction := .access (.write r.offset Config.accessBytes v)

/-- `rd <REG>` (R81). -/
def hostRd (r : Reg) : HostAction := .access (.read r.offset Config.accessBytes)

/-- `cmd <command>` (R82). -/
def hostCmd (i : Instr) : HostAction := hostWr .cmd (encode i)

/-- `do <command>`: the command, then `poll` (R82). -/
def hostDo (i : Instr) : List HostAction := [hostCmd i, .poll]

/-- `clrerr` (R82). -/
def hostClrerr : HostAction := hostWr .status 0x100

/-- `chunk <c0..c15>`, missing bytes given as 0 (R82). -/
def hostChunk (bs : List Byte) : List HostAction :=
  [hostWr .din0 (chunkWord (bs.take 8)), hostWr .din1 (chunkWord (bs.drop 8))]

/-- The canonical driver program (R137). -/
def hostHash (v : Variant) (key : List Byte) (seed : BitVec 32) (useSeed : Bool) : List HostAction :=
  [hostWr .ctrl ((BitVec.ofBool useSeed).setWidth 64), hostWr .seed (seed.setWidth 64),
    hostWr .len (BitVec.ofNat 64 key.length)] ++
  hostDo v.startCommand ++
  (List.range (chunkCount key.length)).flatMap (fun m => hostChunk (chunkOf key m) ++ hostDo .block) ++
  hostDo .finish ++
  [hostRd .out0, hostRd .out1]

end Sys2Proof.Machine
end

