-- ==== Sys2Proof/Safety.lean ====
section
/-! DEFINITION. What counts as a safe run: the invariant of the machine (10_state.md R34, R43, R44; 70_reset_and_hazards.md
R180), the host's one duty (R180), and the relation between the wrapper and the hash it computes (41_hash_wrapper.md R137). -/

namespace Sys2Proof.Machine

/-- The operands the same command would sample at `s` (R43). -/
def resample (op : Operation) (s : State) : Option Operation :=
  match op with
  | .nop => sampleNop s
  | .mix n _ _ => sampleMix n s
  | .start v _ _ _ => sampleStart v s
  | .block _ _ _ _ _ _ => sampleBlock s
  | .finish _ _ _ _ => sampleFinish s
  | .abort => sampleAbort s

/-- `IDLE` has `REMAIN = 0` and `LENL = 0`, `DONE` has `REMAIN = 0`, and `REMAIN <= LENL` (R34, R44). -/
abbrev ProgressInv (s : State) : Prop :=
  (s.wrapper.phaseCode = 0 → s.remain = 0 ∧ s.lenl = 0) ∧ (s.wrapper.phaseCode = 2 → s.remain = 0) ∧ s.remain ≤ s.lenl

/-- What has been absorbed is whole chunks, until nothing remains (R139). -/
abbrev WholeChunksInv (s : State) : Prop := s.remain = 0 ∨ (s.lenl.toNat - s.remain.toNat) % 16 = 0

/-- The pending operation's sampled operands are those the registers still hold, and its sequence check still passes (R43). -/
abbrev SampledInv (s : State) : Prop := ∀ p ∈ s.pending, resample p.op s = some p.op

/-- While reset is asserted every register has its reset value and nothing is pending (R180). -/
abbrev ResetInv (s : State) : Prop :=
  s.inReset = true →
    s = { State.reset with inReset := true, requests := s.requests, draws := s.draws, latencies := s.latencies }

/-- The invariant that every step keeps. -/
structure Inv (s : State) : Prop where
  progress : ProgressInv s
  wholeChunks : WholeChunksInv s
  sampled : SampledInv s
  reset : ResetInv s

/-- Is the next host action a bus transaction. -/
def nextIsTransaction (s : State) : Bool :=
  match s.requests with
  | .access _ :: _ => true
  | .poll :: _ => true
  | .assertReset :: _ => false
  | .releaseReset :: _ => false
  | [] => false

/-- The host keeps its one duty: no transaction while reset is asserted (R180). -/
def hostKeepsReset (s : State) : Prop := s.inReset = true → nextIsTransaction s = false

/-- The wrapper stands where `H_v` stands after `m` chunks of `key`, started at `start` (R137). -/
structure Absorbing (v : Variant) (key : List Byte) (start : Word × Word) (m : Nat) (s : State) : Prop where
  phase : s.wrapper = .absorb v
  length : s.lenl = BitVec.ofNat 64 key.length
  remaining : s.remain = BitVec.ofNat 64 (key.length - 16 * m)
  accumulator : (s.a, s.b) = hashAfter v key start m

end Sys2Proof.Machine
end

