-- ==== Sys2Proof/Certificates/Slice0/Obligations.lean ====
section
/-! DEFINITION. The statements for the provers. An acceptance reads `{ s with pending := some ⟨op, left⟩, … }`: `left` is the
operation's busy time `LAT`, the next argument of `latencies` or a free draw (log entry 2), and nothing rests on it. -/

open Sys2Proof Sys2Proof.Machine

/-- The examples of 30_encoding.md R83. -/
def Obligations.KnownWordsDecode : Prop :=
  decode 0x0000000000000C01 = .command (.mix 12) ∧
  decode 0x000000000000FF01 = .command (.mix 255) ∧
  decode 0x0000000000000602 = .command .startV6 ∧
  (∀ w ∈ [(0x0000000000000702 : Word), 0x0001000000000003, 0x0000000000000103, 0x0000000000000006],
    ∃ why, decode w = .illegal why)

/-- R73, R79: decoding the encoding of any well-formed command gives it back, as a word and as the eight bytes of the bus. -/
def Obligations.DecodeOfEncodeIsTheCommand : Prop :=
  ∀ i : Instr, i.wellFormed = true →
    decode (encode i) = .command i ∧ decodeBytes (bytesLE (encode i)) = .command i

/-- R73, R79: a legal word is the encoding of the command it decodes to, so each command has exactly one word. -/
def Obligations.EncodeOfDecodeIsTheWord : Prop :=
  ∀ (w : Word) (i : Instr), decode w = .command i → encode i = w

/-- 60_exceptions.md R152: the illegal words are exactly the four listed sets, and a write of one to `CMD` while not busy
raises `ILLEGAL_CMD` with the word and changes nothing else. -/
def Obligations.IllegalWordsRaiseIllegalCmd : Prop :=
  (∀ w : Word, (∃ why, decode w = .illegal why) ↔
    (w.extractLsb' 16 48 ≠ 0 ∨ 6 ≤ (w.extractLsb' 0 8).toNat ∨
      (w.extractLsb' 0 8 = 0x02 ∧ ¬ (1 ≤ (w.extractLsb' 8 8).toNat ∧ (w.extractLsb' 8 8).toNat ≤ 6)) ∨
      (w.extractLsb' 0 8 ∈ [(0x00 : BitVec 8), 0x03, 0x04, 0x05] ∧ w.extractLsb' 8 8 ≠ 0))) ∧
  (∀ (s : State) (rest : List HostAction) (w : Word), s.pending = none → s.inReset = false →
    s.requests = .access (.write 0x38 8 w) :: rest → (∃ why, decode w = .illegal why) →
      step s = .next { s with
        requests := rest
        response := some (.written false)
        error := if s.error.isNone then some ⟨.illegalCmd, w⟩ else s.error })

/-- R73: a word is legal exactly when it belongs to a row of the opcode table, and no word belongs to two rows. -/
def Obligations.OpcodeTableRowsAreDisjointAndComplete : Prop :=
  (∀ w : Word, (∃ i, decode w = .command i) ↔ ∃ r ∈ opcodeTable, w &&& r.mask = r.pattern) ∧
  (∀ w : Word, ∀ r₁ ∈ opcodeTable, ∀ r₂ ∈ opcodeTable,
    w &&& r₁.mask = r₁.pattern → w &&& r₂.mask = r₂.pattern → r₁ = r₂)

/-- 00_scope.md R12: rotate left, as a formula and bit by bit, and the range of the amounts ARXH uses. -/
def Obligations.RotateLeftMovesBits : Prop :=
  (∀ x : Word, rotl64 x 0 = x) ∧
  (∀ (x : Word) (r : Nat), 1 ≤ r → r ≤ 63 → rotl64 x r = (x <<< r) ||| (x >>> (64 - r))) ∧
  (∀ (x : Word) (r j : Nat), r ≤ 63 → j < 64 → (rotl64 x r).getLsbD j = x.getLsbD ((j + 64 - r) % 64)) ∧
  (∀ i : Nat, 8 ≤ rotAmount i ∧ rotAmount i ≤ 57)

/-- 40_arx_primitive.md R100, R101: `n + 1` rounds are `n` rounds and then the round with index `n`, whose second line reads
the new `a` and the old `b`. -/
def Obligations.MixRunsItsRoundsInOrder : Prop :=
  (∀ (a b : Word) (i : Nat), arxRound (a, b) i =
    (a + b + 1,
      rotl64 b ([12, 39, 21, 13, 32, 11, 24, 53, 17, 27, 57, 13, 50, 8, 52, 8].getD (i % 16) 0) ^^^ (a + b + 1))) ∧
  (∀ a b : Word, mix a b 0 = (a, b)) ∧
  (∀ (a b : Word) (n : Nat), mix a b (n + 1) = arxRound (mix a b n) n)

/-- R103 (a), (b): composition at a multiple of 16, and a case where the first count is no multiple and the results differ. -/
def Obligations.MixComposesAtMultiplesOfSixteen : Prop :=
  (∀ (a b : Word) (p q : Nat), mix a b (16 * p + q) = mix (mix a b (16 * p)).1 (mix a b (16 * p)).2 q) ∧
  mix 0 0 300 ≠ mix (mix 0 0 150).1 (mix 0 0 150).2 150

/-- R103 (c): every round has the stated inverse, and `mix` with any count is a bijection of the pairs. -/
def Obligations.MixIsABijection : Prop :=
  (∀ (a b : Word) (i : Nat),
    let ab := arxRound (a, b) i
    let b₀ := rotl64 (ab.2 ^^^ ab.1) (64 - rotAmount i)
    (ab.1 - b₀ - 1, b₀) = (a, b)) ∧
  (∀ n : Nat, Function.Bijective (fun ab : Word × Word => mix ab.1 ab.2 n))

/-- R103 (d), (e), (f): the fixed point and the two small rounds. -/
def Obligations.MixFixedPointAndSmallRounds : Prop :=
  (∀ n : Nat, mix 0 0xFFFFFFFFFFFFFFFF n = (0, 0xFFFFFFFFFFFFFFFF)) ∧
  (∀ i : Nat, arxRound (0xFFFFFFFFFFFFFFFF, 0) i = (0, 0)) ∧
  arxRound (0, 0) 0 = (1, 1)

/-- 41_hash_wrapper.md R130: byte `t` of the chunk is kept exactly when `t < k`, so masking equals `LE64` of the chunk
zero-padded from byte `k` on. -/
def Obligations.ChunkMaskKeepsTheFirstBytes : Prop :=
  (∀ k t : Nat, 1 ≤ k → k ≤ 16 → t < 8 →
    byteLane (chunkMask k).1 t = (if t < k then 0xFF else 0x00) ∧
    byteLane (chunkMask k).2 t = (if 8 + t < k then 0xFF else 0x00)) ∧
  (∀ (k : Nat) (c : List Byte), 1 ≤ k → k ≤ 16 → c.length = 16 →
    le64 (c.take 8) &&& (chunkMask k).1 = le64 ((c.take k).take 8) ∧
    le64 (c.drop 8) &&& (chunkMask k).2 = le64 ((c.take k).drop 8)) ∧
  chunkMask 5 = (0x000000FFFFFFFFFF, 0) ∧ chunkMask 9 = (0xFFFFFFFFFFFFFFFF, 0xFF)

/-- R7, R120: the variant table and the shared round counts. -/
def Obligations.VariantTableValues : Prop :=
  ([.v1, .v2, .v3, .v4, .v5, .v6].map fun v => (Config.blockRounds v, Config.fold v, Config.collapse v)) =
    [(0, false, false), (0, true, false), (12, true, false), (4, true, false), (5, true, false), (5, true, true)] ∧
  Config.seedRounds = 12 ∧ Config.finalRounds = 12 ∧ Config.collapseRounds = 12

/-- 40_arx_primitive.md R105: NOP is accepted in every phase, and its completion, in whatever state `u` it comes, changes
nothing but `BUSY`; its errors. -/
def Obligations.NopRunsToCompletion : Prop :=
  encode .nop = 0x0000000000000000 ∧
  (∀ s : State, s.pending = none → ∃ op,
    exec .nop s = .next { s with
      pending := some ⟨op, s.latencies.headD (Config.latency s.draws)⟩
      latencies := s.latencies.tail
      draws := s.draws + 1 } ∧
    ∀ u : State, u.pending = some ⟨op, 0⟩ → step u = .next { u with pending := none }) ∧
  (∀ (s : State) (p : Pending), s.pending = some p →
    exec .nop s = .next { s with error := if s.error.isNone then some ⟨.busyCmd, encode .nop⟩ else s.error }) ∧
  (∀ w : Word, w.extractLsb' 0 8 = 0x00 → w.extractLsb' 8 8 ≠ 0 ∨ w.extractLsb' 16 48 ≠ 0 → ∃ why, decode w = .illegal why)

/-- R104: MIX is accepted in every phase, and its completion writes `mix(A, B, n)` of the sampled `A` and `B` and nothing else
but `BUSY`; its errors; its example. -/
def Obligations.MixRunsToCompletion : Prop :=
  (∀ n : BitVec 8, encode (.mix n) = (n.setWidth 64 <<< 8) ||| 0x01) ∧
  (∀ (n : BitVec 8) (s : State), s.pending = none → ∃ op,
    exec (.mix n) s = .next { s with
      pending := some ⟨op, s.latencies.headD (Config.latency s.draws)⟩
      latencies := s.latencies.tail
      draws := s.draws + 1 } ∧
    ∀ u : State, u.pending = some ⟨op, 0⟩ → step u = .next { u with
      a := (mix s.a s.b n.toNat).1
      b := (mix s.a s.b n.toNat).2
      pending := none }) ∧
  (∀ (n : BitVec 8) (s : State) (p : Pending), s.pending = some p →
    exec (.mix n) s = .next { s with error := if s.error.isNone then some ⟨.busyCmd, encode (.mix n)⟩ else s.error }) ∧
  (∀ w : Word, w.extractLsb' 0 8 = 0x01 → w.extractLsb' 16 48 ≠ 0 → ∃ why, decode w = .illegal why) ∧
  mix 0 1 1 = (0x0000000000000002, 0x0000000000001002)

/-- 41_hash_wrapper.md R127, R128: each of the six START commands (`startV1` to `startV6`) is accepted in every phase, and its
completion latches the variant and the length, injects the seed or sets `(0, 0)`, and enters `ABSORB`; it leaves `OUT0`, `OUT1`
and everything else alone; its errors; its example. -/
def Obligations.StartRunsToCompletion : Prop :=
  (∀ v : Variant, encode v.startCommand = ((variantNumber v).setWidth 64 <<< 8) ||| 0x02) ∧
  (∀ (v : Variant) (s : State), s.pending = none → ∃ op,
    exec v.startCommand s = .next { s with
      pending := some ⟨op, s.latencies.headD (Config.latency s.draws)⟩
      latencies := s.latencies.tail
      draws := s.draws + 1 } ∧
    ∀ u : State, u.pending = some ⟨op, 0⟩ → step u = .next { u with
      wrapper := .absorb v
      lenl := s.len
      remain := s.len
      a := if s.useSeed then (mix (s.seed.setWidth 64) 0 12).1 else 0
      b := if s.useSeed then (mix (s.seed.setWidth 64) 0 12).2 else 0
      pending := none }) ∧
  (∀ (v : Variant) (s : State) (p : Pending), s.pending = some p → exec v.startCommand s =
    .next { s with error := if s.error.isNone then some ⟨.busyCmd, encode v.startCommand⟩ else s.error }) ∧
  (∀ w : Word, w.extractLsb' 0 8 = 0x02 →
    ¬ (1 ≤ (w.extractLsb' 8 8).toNat ∧ (w.extractLsb' 8 8).toNat ≤ 6) ∨ w.extractLsb' 16 48 ≠ 0 →
      ∃ why, decode w = .illegal why) ∧
  mix 0 0 12 = (0x86F49923AC18560A, 0x81E192F3F0CD45C1) ∧ mix 0 0 12 ≠ (0, 0)

/-- R129: BLOCK in `ABSORB` with `REMAIN > 0` is accepted, and its completion xors in the first `k` bytes of the chunk, runs the
variant's rounds once from index 0 and takes `k` from `REMAIN`; in every other state it raises `SEQUENCE`; its errors; its
example, variant 1 after `start v1` with seed 0. -/
def Obligations.BlockRunsToCompletion : Prop :=
  encode .block = 0x0000000000000003 ∧
  (∀ (v : Variant) (s : State), s.pending = none → s.wrapper = .absorb v → s.remain ≠ 0 → ∃ op,
    exec .block s = .next { s with
      pending := some ⟨op, s.latencies.headD (Config.latency s.draws)⟩
      latencies := s.latencies.tail
      draws := s.draws + 1 } ∧
    ∀ u : State, u.pending = some ⟨op, 0⟩ →
      let k := min s.remain.toNat 16
      let ab := mix (s.a ^^^ (s.din0 &&& (chunkMask k).1)) (s.b ^^^ (s.din1 &&& (chunkMask k).2)) (Config.blockRounds v)
      step u = .next { u with a := ab.1, b := ab.2, remain := s.remain - BitVec.ofNat 64 k, pending := none }) ∧
  (∀ s : State, s.pending = none → (∀ v, s.wrapper ≠ .absorb v) ∨ s.remain = 0 →
    exec .block s = .next { s with error := if s.error.isNone then some ⟨.sequence, encode .block⟩ else s.error }) ∧
  (∀ (s : State) (p : Pending), s.pending = some p →
    exec .block s = .next { s with error := if s.error.isNone then some ⟨.busyCmd, encode .block⟩ else s.error }) ∧
  (∀ w : Word, w.extractLsb' 0 8 = 0x03 → w.extractLsb' 8 8 ≠ 0 ∨ w.extractLsb' 16 48 ≠ 0 → ∃ why, decode w = .illegal why) ∧
  ((mix 0 0 12).1 ^^^ (0x0000004544434241 &&& (chunkMask 5).1), (mix 0 0 12).2 ^^^ (0 &&& (chunkMask 5).2)) =
    ((0x86F49966E85B144B, 0x81E192F3F0CD45C1) : Word × Word)

/-- R131 to R134: FINISH in `ABSORB` with `REMAIN = 0` is accepted, and its completion folds the length (variants 2 to 6), runs
the final mix, collapses (variant 6), writes `A`, `B`, `OUT0` and `OUT1` and enters `DONE`, all at once; in every other state it
raises `SEQUENCE`; its errors; its example. -/
def Obligations.FinishRunsToCompletion : Prop :=
  encode .finish = 0x0000000000000004 ∧
  (∀ (v : Variant) (s : State), s.pending = none → s.wrapper = .absorb v → s.remain = 0 → ∃ op,
    exec .finish s = .next { s with
      pending := some ⟨op, s.latencies.headD (Config.latency s.draws)⟩
      latencies := s.latencies.tail
      draws := s.draws + 1 } ∧
    ∀ u : State, u.pending = some ⟨op, 0⟩ →
      let folded := if v = .v1 then s.a else s.a ^^^ s.lenl
      let mixed := mix folded s.b 12
      let out := if v = .v6 then mix mixed.1 0 12 else mixed
      step u = .next { u with
        a := out.1
        b := out.2
        out0 := out.1
        out1 := out.2
        wrapper := .done v
        pending := none }) ∧
  (∀ s : State, s.pending = none → (∀ v, s.wrapper ≠ .absorb v) ∨ s.remain ≠ 0 →
    exec .finish s = .next { s with error := if s.error.isNone then some ⟨.sequence, encode .finish⟩ else s.error }) ∧
  (∀ (s : State) (p : Pending), s.pending = some p →
    exec .finish s = .next { s with error := if s.error.isNone then some ⟨.busyCmd, encode .finish⟩ else s.error }) ∧
  (∀ w : Word, w.extractLsb' 0 8 = 0x04 → w.extractLsb' 8 8 ≠ 0 ∨ w.extractLsb' 16 48 ≠ 0 → ∃ why, decode w = .illegal why) ∧
  mix 0x86F49966E85B144B 0x81E192F3F0CD45C1 12 = (0xE2DC2A61E28D89C2, 0xCD6FA6F5ECCAB65D) ∧
  digestBytes (0xE2DC2A61E28D89C2, 0xCD6FA6F5ECCAB65D) =
    [0xc2, 0x89, 0x8d, 0xe2, 0x61, 0x2a, 0xdc, 0xe2, 0x5d, 0xb6, 0xca, 0xec, 0xf5, 0xa6, 0x6f, 0xcd]

/-- R135: ABORT is accepted in every phase, and its completion sets `PHASE`, `VAR_L`, `REMAIN` and `LENL` to 0 and keeps `A`, `B`,
`OUT0`, `OUT1`, the inputs and the error record; its errors. -/
def Obligations.AbortRunsToCompletion : Prop :=
  encode .abort = 0x0000000000000005 ∧
  (∀ s : State, s.pending = none → ∃ op,
    exec .abort s = .next { s with
      pending := some ⟨op, s.latencies.headD (Config.latency s.draws)⟩
      latencies := s.latencies.tail
      draws := s.draws + 1 } ∧
    ∀ u : State, u.pending = some ⟨op, 0⟩ →
      step u = .next { u with wrapper := .idle, remain := 0, lenl := 0, pending := none }) ∧
  (∀ (s : State) (p : Pending), s.pending = some p →
    exec .abort s = .next { s with error := if s.error.isNone then some ⟨.busyCmd, encode .abort⟩ else s.error }) ∧
  (∀ w : Word, w.extractLsb' 0 8 = 0x05 → w.extractLsb' 8 8 ≠ 0 ∨ w.extractLsb' 16 48 ≠ 0 → ∃ why, decode w = .illegal why)

/-- 20_memory.md R57, 30_encoding.md R79: a step that serves a write of a legal word to `CMD` is `exec` of the command it decodes
to, at the state whose queue has moved on and whose response stands; an operation in progress is one step nearer to its end. -/
def Obligations.StepRunsTheDecodedCommand : Prop :=
  ∀ (s : State) (rest : List HostAction) (w : Word) (i : Instr),
    s.inReset = false → (∀ p, s.pending = some p → p.left ≠ 0) →
    s.requests = .access (.write 0x38 8 w) :: rest → decode w = .command i →
      step s = exec i { s with
        requests := rest
        response := some (.written false)
        pending := s.pending.map fun p => ⟨p.op, p.left - 1⟩ }

/-- 60_exceptions.md R154: while busy a write to `CMD` raises `BUSY_CMD` with its word, a write to any other aligned offset but
`STATUS` raises `BUSY_WRITE` with its offset, the write is dropped and the operation goes on with its operands; a write to `STATUS`
is performed, and a well-formed read raises nothing. -/
def Obligations.WritesWhileBusyAreRefused : Prop :=
  ∀ (s : State) (p : Pending) (rest : List HostAction) (off : BitVec 8) (v : Word),
    s.pending = some p → p.left ≠ 0 → s.inReset = false → off.toNat % 8 = 0 →
    (s.requests = .access (.write off 8 v) :: rest →
      step s = .next { s with
        pending := some ⟨p.op, p.left - 1⟩
        requests := rest
        response := some (.written false)
        error :=
          if off = 0x10 then if v.getLsbD 8 then none else s.error
          else if s.error.isSome then s.error
          else if off = 0x38 then some ⟨.busyCmd, v⟩
          else some ⟨.busyWrite, off.setWidth 64⟩ }) ∧
    (s.requests = .access (.read off 8) :: rest → ∃ t,
      step s = .next t ∧ t.error = s.error ∧ t.pending = some ⟨p.op, p.left - 1⟩)

/-- 10_state.md R28: a write to `STATUS` acts only on bit 8, busy or not, and raises no error. -/
def Obligations.StatusWriteClearsTheRecord : Prop :=
  ∀ (s : State) (rest : List HostAction) (v : Word),
    s.inReset = false → (∀ p, s.pending = some p → p.left ≠ 0) → s.requests = .access (.write 0x10 8 v) :: rest →
      step s = .next { s with
        pending := s.pending.map fun p => ⟨p.op, p.left - 1⟩
        requests := rest
        response := some (.written false)
        error := if v.getLsbD 8 then none else s.error }

/-- 20_memory.md R55, 60_exceptions.md R156: a malformed access, busy or not, gets an error response, a read returns 0, `ACCESS` is
recorded with offset, size and direction, and no register is read or written. -/
def Obligations.MalformedAccessRaisesAccess : Prop :=
  ∀ (s : State) (rest : List HostAction) (off size : BitVec 8) (v : Word),
    s.inReset = false → (∀ p, s.pending = some p → p.left ≠ 0) → size ≠ 8 ∨ off.toNat % 8 ≠ 0 →
    (s.requests = .access (.read off size) :: rest →
      step s = .next { s with
        pending := s.pending.map fun p => ⟨p.op, p.left - 1⟩
        requests := rest
        response := some (.readData 0 true)
        error :=
          if s.error.isNone then some ⟨.access, BitVec.ofNat 64 (256 * size.toNat + off.toNat)⟩ else s.error }) ∧
    (s.requests = .access (.write off size v) :: rest →
      step s = .next { s with
        pending := s.pending.map fun p => ⟨p.op, p.left - 1⟩
        requests := rest
        response := some (.written true)
        error :=
          if s.error.isNone then some ⟨.access, BitVec.ofNat 64 (65536 + 256 * size.toNat + off.toNat)⟩ else s.error })

/-- 60_exceptions.md R158: the first check that fails decides which error a write raises, and a write that passes them all raises
none. -/
def Obligations.ChecksRunInTheirOrder : Prop :=
  ∀ (s t : State) (rest : List HostAction) (off size : BitVec 8) (v : Word),
    s.inReset = false → (∀ p, s.pending = some p → p.left ≠ 0) → s.error = none →
    s.requests = .access (.write off size v) :: rest → step s = .next t →
      t.error =
        if size ≠ 8 ∨ off.toNat % 8 ≠ 0 then
          some ⟨.access, BitVec.ofNat 64 (65536 + 256 * size.toNat + off.toNat)⟩
        else if off = 0x10 then none
        else if s.pending.isSome then
          some (if off = 0x38 then ⟨.busyCmd, v⟩ else ⟨.busyWrite, off.setWidth 64⟩)
        else if off = 0x38 then
          match decode v with
          | .illegal _ => some ⟨.illegalCmd, v⟩
          | .command i =>
            if i = .block ∧ ¬ (s.wrapper.phaseCode = 1 ∧ s.remain ≠ 0) then some ⟨.sequence, v⟩
            else if i = .finish ∧ ¬ (s.wrapper.phaseCode = 1 ∧ s.remain = 0) then some ⟨.sequence, v⟩
            else none
        else none

/-- R27, R155, R161: while `ERR = 1` no step changes the record but a write to `STATUS` with bit 8 set, or
reset, and those leave none. -/
def Obligations.FirstErrorWins : Prop :=
  ∀ (s t : State) (e : ErrorRecord), s.error = some e → step s = .next t →
    t.error = some e ∨
    (t.error = none ∧
      ((∃ v rest, s.requests = .access (.write 0x10 8 v) :: rest ∧ v.getLsbD 8 = true) ∨
        ∃ rest, s.requests = .assertReset :: rest))

/-- R159: a step that records an error changes only the record, the port's queue and response, and the busy countdown. -/
def Obligations.ErrorsArePrecise : Prop :=
  ∀ (s t : State) (e : ErrorRecord), s.error = none → step s = .next t → t.error = some e →
    t = { s with
      error := some e
      requests := s.requests.tail
      response := t.response
      pending := s.pending.map fun p => ⟨p.op, p.left - 1⟩ }

/-- 20_memory.md R56, 10_state.md R21 to R38: an aligned 8-byte read while not busy returns the register's value, with no effect but
the response; `CMD` and the reserved offsets read 0. -/
def Obligations.ReadsReturnTheRegisters : Prop :=
  ∀ (s : State) (rest : List HostAction) (off : BitVec 8) (v : Word),
    s.pending = none → s.inReset = false → s.requests = .access (.read off 8) :: rest →
    ((off, v) ∈
        [((0x00 : BitVec 8), (0x0000000148585241 : Word)), (0x08, if s.useSeed then 1 else 0), (0x10, statusWord s),
          (0x18, s.seed.setWidth 64), (0x20, s.len), (0x28, s.din0), (0x30, s.din1), (0x38, 0), (0x40, s.a), (0x48, s.b),
          (0x50, s.out0), (0x58, s.out1), (0x60, s.remain), (0x68, s.lenl), (0x70, 0x35180B200D15270C),
          (0x78, 0x083408320D391B11), (0x80, match s.error with | none => 0 | some e => e.info)] ∨
      (off.toNat % 8 = 0 ∧ 0x88 ≤ off.toNat ∧ v = 0)) →
      step s = .next { s with requests := rest, response := some (.readData v false) }

/-- 70_reset_and_hazards.md R184, 20_memory.md R56: while busy, `A`, `B`, `OUT0`, `OUT1`, `REMAIN`, `LENL` and the PHASE and VARIANT
fields of `STATUS` read as a free draw, a new one for each read; every other register and field reads exactly. The free draw is
`Config.freeWord` at the draw counter (log entry 1). -/
def Obligations.ReadsWhileBusyAreFree : Prop :=
  ∀ (s : State) (p : Pending) (rest : List HostAction) (off : BitVec 8),
    s.pending = some p → p.left ≠ 0 → s.inReset = false → s.requests = .access (.read off 8) :: rest →
    (off ∈ [(0x40 : BitVec 8), 0x48, 0x50, 0x58, 0x60, 0x68] →
      step s = .next { s with
        pending := some ⟨p.op, p.left - 1⟩
        requests := rest
        draws := s.draws + 1
        response := some (.readData (Config.freeWord s.draws) false) }) ∧
    (off = 0x10 → ∃ v : Word,
      v &&& ~~~(0x76 : Word) = statusWord s &&& ~~~(0x76 : Word) ∧
      v.extractLsb' 1 2 = (Config.freeWord s.draws).extractLsb' 1 2 ∧
      v.extractLsb' 4 3 = (Config.freeWord s.draws).extractLsb' 4 3 ∧
      step s = .next { s with
        pending := some ⟨p.op, p.left - 1⟩
        requests := rest
        draws := s.draws + 1
        response := some (.readData v false) }) ∧
    (∀ v : Word,
      ((off, v) ∈
          [((0x00 : BitVec 8), (0x0000000148585241 : Word)), (0x08, if s.useSeed then 1 else 0), (0x18, s.seed.setWidth 64),
            (0x20, s.len), (0x28, s.din0), (0x30, s.din1), (0x38, 0), (0x70, 0x35180B200D15270C),
            (0x78, 0x083408320D391B11), (0x80, match s.error with | none => 0 | some e => e.info)] ∨
        (off.toNat % 8 = 0 ∧ 0x88 ≤ off.toNat ∧ v = 0)) →
        step s = .next { s with
          pending := some ⟨p.op, p.left - 1⟩
          requests := rest
          response := some (.readData v false) })

/-- 10_state.md R23 to R27: the layout of `STATUS`. -/
def Obligations.StatusLayout : Prop :=
  ∀ s : State,
    (statusWord s).getLsbD 0 = s.pending.isSome ∧
    (statusWord s).extractLsb' 1 2 = (match s.wrapper with | .idle => 0 | .absorb _ => 1 | .done _ => 2) ∧
    (statusWord s).getLsbD 3 = false ∧
    (statusWord s).extractLsb' 4 3 =
      (match s.wrapper with | .idle => 0 | .absorb v => variantNumber v | .done v => variantNumber v) ∧
    (statusWord s).getLsbD 7 = false ∧
    (statusWord s).getLsbD 8 = s.error.isSome ∧
    (statusWord s).extractLsb' 9 3 = 0 ∧
    (statusWord s).extractLsb' 12 4 = (match s.error with | none => 0 | some e => e.cause.code) ∧
    (statusWord s).extractLsb' 16 48 = 0 ∧
    [Cause.illegalCmd, .sequence, .busyCmd, .busyWrite, .access].map Cause.code = [1, 2, 3, 4, 5] ∧
    [Variant.v1, .v2, .v3, .v4, .v5, .v6].map variantNumber = [1, 2, 3, 4, 5, 6]

/-- 20_memory.md R57, 10_state.md R22, R29, R38: what an aligned 8-byte write stores while not busy; read-only registers and reserved
offsets ignore it with no error. -/
def Obligations.WritesStoreTheirRegister : Prop :=
  ∀ (s : State) (rest : List HostAction) (off : BitVec 8) (v : Word),
    s.pending = none → s.inReset = false → s.requests = .access (.write off 8 v) :: rest →
    ∀ t : State, t = { s with requests := rest, response := some (.written false) } →
    (off = 0x08 → step s = .next { t with useSeed := v.getLsbD 0 }) ∧
    (off = 0x18 → step s = .next { t with seed := v.setWidth 32 }) ∧
    (off = 0x20 → step s = .next { t with len := v }) ∧
    (off = 0x28 → step s = .next { t with din0 := v }) ∧
    (off = 0x30 → step s = .next { t with din1 := v }) ∧
    (off = 0x40 → step s = .next { t with a := v }) ∧
    (off = 0x48 → step s = .next { t with b := v }) ∧
    (off ∈ [(0x00 : BitVec 8), 0x50, 0x58, 0x60, 0x68, 0x70, 0x78, 0x80] ∨ (off.toNat % 8 = 0 ∧ 0x88 ≤ off.toNat) →
      step s = .next t)

/-- 20_memory.md R58: a well-formed read changes no register; besides the port's own fields, the busy countdown and the draw
counter, the state is as before. -/
def Obligations.ReadsHaveNoSideEffects : Prop :=
  ∀ (s t : State) (rest : List HostAction) (off : BitVec 8),
    s.inReset = false → (∀ p, s.pending = some p → p.left ≠ 0) → off.toNat % 8 = 0 →
    s.requests = .access (.read off 8) :: rest → step s = .next t →
      t = { s with
        requests := rest
        response := t.response
        draws := t.draws
        pending := s.pending.map fun p => ⟨p.op, p.left - 1⟩ }

/-- 10_state.md R42, R20, R33, R34, R37, 60_exceptions.md R151: which events change which register: a host write while not busy, the
completion of a command, reset; and the error record (`ERR`, `ECAUSE`, `ERRINFO`) only by a write to `STATUS` with bit 8 set, a
malformed access, a write refused while busy, a command word that is illegal or out of sequence, or reset. No other event is an
error: no completion, no quiet step, no poll, no well-formed read and no release of reset. -/
def Obligations.OnlyTheirWritersChangeRegisters : Prop :=
  ∀ s t : State, step s = .next t →
    let hostWrites (off : BitVec 8) : Prop :=
      s.pending = none ∧ ∃ v rest, s.requests = .access (.write off 8 v) :: rest
    let resets : Prop := ∃ rest, s.requests = .assertReset :: rest
    let mixes : Prop := ∃ n a b, s.pending = some ⟨.mix n a b, 0⟩
    let starts : Prop := ∃ v u sd l, s.pending = some ⟨.start v u sd l, 0⟩
    let blocks : Prop := ∃ d e r v a b, s.pending = some ⟨.block d e r v a b, 0⟩
    let finishes : Prop := ∃ l v a b, s.pending = some ⟨.finish l v a b, 0⟩
    let aborts : Prop := s.pending = some ⟨.abort, 0⟩
    let clears : Prop := ∃ v rest, s.requests = .access (.write 0x10 8 v) :: rest ∧ v.getLsbD 8 = true
    let malformed : Prop := ∃ (off size : BitVec 8) (rest : List HostAction), (size ≠ 8 ∨ off.toNat % 8 ≠ 0) ∧
      (s.requests = .access (.read off size) :: rest ∨ ∃ v, s.requests = .access (.write off size v) :: rest)
    let refusedWhileBusy : Prop := s.pending ≠ none ∧
      ∃ (off : BitVec 8) (v : Word) (rest : List HostAction), off ≠ 0x10 ∧ s.requests = .access (.write off 8 v) :: rest
    let refusedCommand : Prop := s.pending = none ∧ ∃ w rest, s.requests = .access (.write 0x38 8 w) :: rest ∧
      ((∃ why, decode w = .illegal why) ∨
        (decode w = .command .block ∧ ¬ (s.wrapper.phaseCode = 1 ∧ s.remain ≠ 0)) ∨
        (decode w = .command .finish ∧ ¬ (s.wrapper.phaseCode = 1 ∧ s.remain = 0)))
    (t.a ≠ s.a → hostWrites 0x40 ∨ mixes ∨ starts ∨ blocks ∨ finishes ∨ resets) ∧
    (t.b ≠ s.b → hostWrites 0x48 ∨ mixes ∨ starts ∨ blocks ∨ finishes ∨ resets) ∧
    (t.useSeed ≠ s.useSeed → hostWrites 0x08 ∨ resets) ∧
    (t.seed ≠ s.seed → hostWrites 0x18 ∨ resets) ∧
    (t.len ≠ s.len → hostWrites 0x20 ∨ resets) ∧
    (t.din0 ≠ s.din0 → hostWrites 0x28 ∨ resets) ∧
    (t.din1 ≠ s.din1 → hostWrites 0x30 ∨ resets) ∧
    (t.wrapper ≠ s.wrapper → starts ∨ finishes ∨ aborts ∨ resets) ∧
    (t.out0 ≠ s.out0 ∨ t.out1 ≠ s.out1 → finishes ∨ resets) ∧
    (t.remain ≠ s.remain → starts ∨ blocks ∨ aborts ∨ resets) ∧
    (t.lenl ≠ s.lenl → starts ∨ aborts ∨ resets) ∧
    (t.error ≠ s.error → clears ∨ malformed ∨ refusedWhileBusy ∨ refusedCommand ∨ resets)

/-- 41_hash_wrapper.md R136: the phase and variant change only at the completion of START, FINISH or ABORT, or at reset, and to the
value the table gives; from a state with the invariant, FINISH moves the phase only from `ABSORB` with `REMAIN = 0`, under the
variant latched there, to `DONE`. START, ABORT and reset move it from any phase. -/
def Obligations.PhaseChangesFollowTheTable : Prop :=
  ∀ s t : State, step s = .next t → t.wrapper ≠ s.wrapper →
    (∃ v u sd l, s.pending = some ⟨.start v u sd l, 0⟩ ∧ t.wrapper = .absorb v) ∨
    (∃ l v a b, s.pending = some ⟨.finish l v a b, 0⟩ ∧ t.wrapper = .done v ∧
      (Inv s → s.wrapper = .absorb v ∧ s.remain = 0)) ∨
    (s.pending = some ⟨.abort, 0⟩ ∧ t.wrapper = .idle) ∨
    ((∃ rest, s.requests = .assertReset :: rest) ∧ t.wrapper = .idle)

/-- 10_state.md R26: `BUSY` goes from 0 to 1 only by a write of a legal command word to `CMD`, with no error recorded, and from 1 to
0 only at a completion or at reset. -/
def Obligations.BusyFollowsAcceptedCommands : Prop :=
  ∀ s t : State, step s = .next t →
    (s.pending = none → t.pending ≠ none →
      ∃ w rest i, s.requests = .access (.write 0x38 8 w) :: rest ∧ decode w = .command i ∧ t.error = s.error) ∧
    (s.pending ≠ none → t.pending = none →
      (∃ op, s.pending = some ⟨op, 0⟩) ∨ ∃ rest, s.requests = .assertReset :: rest)

/-- R34, R43, R44, R139, R180 together: every step keeps the invariant, from any state that has it. -/
def Obligations.StepKeepsTheInvariant : Prop :=
  ∀ s t : State, Inv s → step s = .next t → Inv t

/-- The machine right after reset has the invariant. -/
def Obligations.ResetHasTheInvariant : Prop := Inv State.reset

/-- 10_state.md R44 and 60_exceptions.md R27: what the invariant says of the registers while not busy. -/
def Obligations.RegistersWhileNotBusy : Prop :=
  ∀ s : State, Inv s → s.pending = none →
    (s.wrapper.phaseCode = 0 → s.wrapper.variantCode = 0 ∧ s.remain = 0) ∧
    (s.wrapper.phaseCode = 1 ∨ s.wrapper.phaseCode = 2 → 1 ≤ s.wrapper.variantCode ∧ s.wrapper.variantCode ≤ 6) ∧
    (s.wrapper.phaseCode = 2 → s.remain = 0) ∧
    (causeCode s.error = 0 ↔ s.error.isSome = false) ∧
    (s.error.isSome = false → errorInfo s.error = 0) ∧
    s.remain ≤ s.lenl

/-- 60_exceptions.md R150: no accepted command fails and no step is refused: a step answers a next state unless the host sends a
transaction while reset is asserted, and `exec` answers a next state for every command in every state. -/
def Obligations.NothingFails : Prop :=
  (∀ s : State, hostKeepsReset s → ∃ t, step s = .next t) ∧
  (∀ (s : State) (r : Refusal), step s ≠ .refused r) ∧
  (∀ (i : Instr) (s : State), ∃ t, exec i s = .next t)

/-- 70_reset_and_hazards.md R180, U11: a transaction or a poll while reset is asserted gets no response; the model stops there by
name (log entry 5, the model's choice of how to stop). -/
def Obligations.TransactionDuringResetStops : Prop :=
  ∀ s : State, s.pending = none → s.inReset = true → nextIsTransaction s = true →
    step s = .fault .transactionDuringReset

/-- 10_state.md R45: every register and field at reset. -/
def Obligations.ResetValues : Prop :=
  State.reset.a = 0 ∧ State.reset.b = 0 ∧ State.reset.useSeed = true ∧ State.reset.pending = none ∧
  State.reset.wrapper.phaseCode = 0 ∧ State.reset.wrapper.variantCode = 0 ∧
  State.reset.error.isSome = false ∧ causeCode State.reset.error = 0 ∧ errorInfo State.reset.error = 0 ∧
  State.reset.seed = 0 ∧ State.reset.len = 0 ∧ State.reset.din0 = 0 ∧ State.reset.din1 = 0 ∧
  State.reset.out0 = 0 ∧ State.reset.out1 = 0 ∧ State.reset.remain = 0 ∧ State.reset.lenl = 0 ∧
  readReg .id State.reset = 0x0000000148585241 ∧
  readReg .rot0 State.reset = 0x35180B200D15270C ∧ readReg .rot1 State.reset = 0x083408320D391B11 ∧
  (List.range 16).map rotAmount = [12, 39, 21, 13, 32, 11, 24, 53, 17, 27, 57, 13, 50, 8, 52, 8]

/-- 70_reset_and_hazards.md R180: asserting reset, with an operation in progress or not, leaves every register at its reset value and
nothing pending; releasing it leaves the block as reset left it. The port's queue and the free values stay (log entry 5). -/
def Obligations.ResetAbandonsTheOperation : Prop :=
  ∀ (s : State) (rest : List HostAction), s.requests = .assertReset :: rest → (∀ p, s.pending = some p → p.left ≠ 0) →
    ∃ t, step s = .next t ∧
      t = { State.reset with inReset := true, requests := rest, draws := s.draws, latencies := s.latencies } ∧
      ∀ rest', rest = .releaseReset :: rest' →
        step t = .next { State.reset with requests := rest', draws := s.draws, latencies := s.latencies }

/-- R185, R41, R43, R61: whatever the host does but assert reset, an accepted operation completes after its busy time: for `n` steps
it stays pending and no register it reads or writes changes, and step `n + 1` writes its results and clears `BUSY`. That busy time
is a count of the model's steps (log entry 2) and that the completion takes a step of its own (log entry 7) are the model's. -/
def Obligations.CompletionIsGuaranteed : Prop :=
  ∀ (n : Nat) (s : State) (op : Operation),
    s.pending = some ⟨op, n⟩ → s.inReset = false → HostAction.assertReset ∉ s.requests.take n →
    ∃ t : State,
      Host.Core.run Sys2Proof.core n s = .next t ∧
      t = { s with
        pending := some ⟨op, 0⟩
        error := t.error
        requests := t.requests
        response := t.response
        draws := t.draws } ∧
      Host.Core.run Sys2Proof.core (n + 1) s = .next (complete op t) ∧ (complete op t).pending = none

/-- 70_reset_and_hazards.md R185, 30_encoding.md R82: `poll` ends, and the block is then not busy. The count, `n + 2` steps from `n`
more busy steps, is the model's: busy time is a count of steps (log entry 2), the completion takes a step of its own (log entry 7),
and `poll` is one host action that reads `STATUS` once a step (log entry 10). -/
def Obligations.PollEnds : Prop :=
  ∀ (n : Nat) (s : State) (op : Operation) (rest : List HostAction),
    s.pending = some ⟨op, n⟩ → s.inReset = false → s.requests = .poll :: rest →
    ∃ t : State, Host.Core.run Sys2Proof.core (n + 2) s = .next t ∧ t.requests = rest ∧ t.pending = none

/-- 41_hash_wrapper.md R137, R53, R130: the wrapper's commands compute `H_v`. START with `LEN` the message's length stands where
`H_v` stands before the first chunk; BLOCK, with the next chunk's bytes in `DIN0` and `DIN1` and anything in the bytes past the
message's end, moves it by one chunk; FINISH after the last chunk puts `H_v` in `OUT0` and `OUT1`. `hashOf` and the machine share
`absorbWords` and `finalizePair`, which BlockRunsToCompletion and FinishRunsToCompletion state in full. -/
def Obligations.WrapperComputesTheHash : Prop :=
  ∀ (v : Variant) (key : List Byte) (seed : BitVec 32) (useSeed : Bool), key.length < 2 ^ 64 →
    (∀ u : State, Absorbing v key (seedState useSeed seed) 0
      (complete (.start v useSeed seed (BitVec.ofNat 64 key.length)) u)) ∧
    (∀ (m : Nat) (s : State) (op : Operation), Absorbing v key (seedState useSeed seed) m s → m < chunkCount key.length →
      (∀ t < (chunkOf key m).length,
        (if t < 8 then byteLane s.din0 t else byteLane s.din1 (t - 8)) = (chunkOf key m).getD t 0) →
      sampleBlock s = some op → Absorbing v key (seedState useSeed seed) (m + 1) (complete op s)) ∧
    (∀ (m : Nat) (s : State), Absorbing v key (seedState useSeed seed) m s → m < chunkCount key.length →
      ∃ op, sampleBlock s = some op) ∧
    (∀ s : State, Absorbing v key (seedState useSeed seed) (chunkCount key.length) s →
      ∃ op, sampleFinish s = some op ∧
        ((complete op s).out0, (complete op s).out1) = hashOf v key seed useSeed ∧ (complete op s).wrapper = .done v)

/-- 41_hash_wrapper.md R126: variant 6's digest is `mix(a5, 0, 12)`, with `a5` the first word of variant 5's. -/
def Obligations.VariantSixCollapsesVariantFive : Prop :=
  ∀ (key : List Byte) (seed : BitVec 32) (useSeed : Bool),
    hashOf .v6 key seed useSeed = mix (hashOf .v5 key seed useSeed).1 0 12

/-- 41_hash_wrapper.md R121: under variant 1 two messages whose zero-padded chunks xor to the same words have one digest, so zero
bytes at the end change nothing. -/
def Obligations.VariantOneSeesOnlyTheXorOfChunks : Prop :=
  (∀ (key key' : List Byte) (seed : BitVec 32) (useSeed : Bool),
    let xorOf (k : List Byte) : Word × Word :=
      (List.range (chunkCount k.length)).foldl
        (fun ab m => (ab.1 ^^^ le64 ((chunkOf k m).take 8), ab.2 ^^^ le64 ((chunkOf k m).drop 8))) (0, 0)
    xorOf key = xorOf key' → hashOf .v1 key seed useSeed = hashOf .v1 key' seed useSeed) ∧
  (∀ (key : List Byte) (n : Nat) (seed : BitVec 32) (useSeed : Bool),
    hashOf .v1 (key ++ List.replicate n 0) seed useSeed = hashOf .v1 key seed useSeed)

/-- 90_conflicts.md C4: under variants 2 to 5 a one-chunk message and the same message padded with zero bytes within the chunk have
different digests. -/
def Obligations.LengthFoldSeparatesPaddedMessages : Prop :=
  ∀ (v : Variant) (key : List Byte) (n : Nat) (seed : BitVec 32) (useSeed : Bool),
    v ∈ [Variant.v2, .v3, .v4, .v5] → key ≠ [] → 0 < n → key.length + n ≤ 16 →
    hashOf v (key ++ List.replicate n 0) seed useSeed ≠ hashOf v key seed useSeed

/-- 41_hash_wrapper.md R139: a message of `L > 0` bytes takes exactly `ceil(L/16)` BLOCK commands, all but the last of 16 bytes. Each
BLOCK takes `chunkSize` from `REMAIN`. -/
def Obligations.BlockCommandsPerMessage : Prop :=
  (∀ (d e r : Word) (v : Variant) (a b : Word) (s : State),
    (complete (.block d e r v a b) s).remain = r - BitVec.ofNat 64 (chunkSize r)) ∧
  (∀ len : Word, len ≠ 0 →
    let after (m : Nat) : Word := (fun r : Word => r - BitVec.ofNat 64 (chunkSize r))^[m] len
    let count := (len.toNat + 15) / 16
    (∀ m, after m = 0 ↔ count ≤ m) ∧
    (∀ m, m + 1 < count → chunkSize (after m) = 16) ∧
    chunkSize (after (count - 1)) = len.toNat - 16 * (count - 1) ∧
    1 ≤ chunkSize (after (count - 1)) ∧ chunkSize (after (count - 1)) ≤ 16)

/-- D23, R129, R130: what `DIN0` and `DIN1` hold in the bytes past the chunk's end cannot reach the state. -/
def Obligations.DirtyPaddingIsNotAbsorbed : Prop :=
  ∀ (d0 d1 e0 e1 remain : Word) (v : Variant) (a b : Word) (u : State),
    (∀ t < min remain.toNat 16,
      (if t < 8 then byteLane d0 t else byteLane d1 (t - 8)) = (if t < 8 then byteLane e0 t else byteLane e1 (t - 8))) →
    complete (.block d0 d1 remain v a b) u = complete (.block e0 e1 remain v a b) u

/-- R127: with `USE_SEED = 0` START ignores `SEED` entirely: two states that differ only in `SEED` have the same result. -/
def Obligations.DisabledSeedIsIgnored : Prop :=
  ∀ (v : Variant) (s u : State) (sd : BitVec 32) (op op' : Operation), s.useSeed = false →
    sampleStart v s = some op → sampleStart v { s with seed := sd } = some op' → complete op u = complete op' u

/-- 41_hash_wrapper.md R138: a message of length 0 absorbs nothing: its hash is the seeded state, the fold of 0, the final mix and the
collapse, the same for variants 1 to 5; and a BLOCK after START with `LEN = 0` raises `SEQUENCE`. -/
def Obligations.EmptyMessageAbsorbsNothing : Prop :=
  (∀ (v : Variant) (seed : BitVec 32) (useSeed : Bool),
    hashOf v [] seed useSeed =
      (let ab := mix (seedState useSeed seed).1 (seedState useSeed seed).2 12
       if v = .v6 then mix ab.1 0 12 else ab)) ∧
  chunkCount 0 = 0 ∧
  (∀ v ∈ [Variant.v1, .v2, .v3, .v4, .v5], digestBytes (hashOf v [] 0 true) =
    [0xfc, 0x5c, 0xc5, 0x19, 0xf7, 0xcd, 0x38, 0x31, 0xa5, 0xfe, 0x61, 0x88, 0x65, 0xb3, 0xff, 0xa0]) ∧
  (∀ (v : Variant) (useSeed : Bool) (seed : BitVec 32) (u s : State),
    s = complete (.start v useSeed seed 0) u → s.wrapper = .absorb v ∧ s.remain = 0 ∧
      exec .block s = .next { s with error := if s.error.isNone then some ⟨.sequence, 0x3⟩ else s.error })

/-- 20_memory.md R54: digest byte `t` is lane `t` of `OUT0`, digest byte `8 + t` lane `t` of `OUT1`; the rule's example. -/
def Obligations.DigestByteOrder : Prop :=
  (∀ out : Word × Word, (digestBytes out).length = 16 ∧
    ∀ t < 8, (digestBytes out).getD t 0 = byteLane out.1 t ∧ (digestBytes out).getD (8 + t) 0 = byteLane out.2 t) ∧
  digestBytes (0x3138CDF719C55CFC, 0xA0FFB3658861FEA5) =
    [0xfc, 0x5c, 0xc5, 0x19, 0xf7, 0xcd, 0x38, 0x31, 0xa5, 0xfe, 0x61, 0x88, 0x65, 0xb3, 0xff, 0xa0]

/-- 00_scope.md R13, 20_memory.md R52, R53: `LE64` puts byte `j` in bits `[8j+7:8j]` and missing bytes are 0; the rule's example. -/
def Obligations.ChunkWordsAreLittleEndian : Prop :=
  (∀ (bs : List Byte) (j : Nat), bs.length ≤ 8 → j < 8 → byteLane (le64 bs) j = bs.getD j 0) ∧
  (∀ w : Word, le64 (bytesLE w) = w) ∧
  hostChunk [0x41, 0x42, 0x43, 0x44, 0x45] =
    [.access (.write 0x28 8 0x0000004544434241), .access (.write 0x30 8 0)]

/-- 00_scope.md R9, 20_memory.md R50: the window is the 256 bytes from `BASE` on, wherever the platform puts it. -/
def Obligations.WindowIsMappedAtBase : Prop :=
  (∀ off : BitVec 8, windowOffset (Config.base + off.toNat) = some off) ∧
  (∀ address : Nat, address < Config.base ∨ Config.base + 256 ≤ address → windowOffset address = none)

/-- 30_encoding.md R80: the assembler emits the command word, and rejects a count above 255 and a variant outside 1..6. -/
def Obligations.AssemblerChecksItsRanges : Prop :=
  (∀ n : Nat, n ≤ 255 → assemble (.mix n) = some (BitVec.ofNat 64 (256 * n + 1))) ∧
  (∀ n : Nat, 255 < n → assemble (.mix n) = none) ∧
  (∀ k : Nat, 1 ≤ k → k ≤ 6 → assemble (.start k) = some (BitVec.ofNat 64 (256 * k + 2))) ∧
  (∀ k : Nat, ¬ (1 ≤ k ∧ k ≤ 6) → assemble (.start k) = none) ∧
  assemble .nop = some 0 ∧ assemble .block = some 3 ∧ assemble .finish = some 4 ∧ assemble .abort = some 5
end

