-- ==== Sys2Proof/Laws/Arx.lean ====
section
/-! SUPPORT. How mixes compose, and what the fields of an assembled command word are. -/

namespace Sys2Proof.Machine

@[simp] theorem mixFrom_zero (i : Nat) (ab : Word × Word) : mixFrom i 0 ab = ab := rfl

theorem mixFrom_succ (i n : Nat) (ab : Word × Word) : mixFrom i (n + 1) ab = mixFrom (i + 1) n (arxRound ab i) := rfl

/-- `m + n` rounds from index `i` are `m` rounds and then `n` rounds from index `i + m`. -/
theorem mixFrom_add (m n : Nat) : ∀ (i : Nat) (ab : Word × Word),
    mixFrom i (m + n) ab = mixFrom (i + m) n (mixFrom i m ab) := by
  induction m with
  | zero => intro i ab; simp
  | succ m ih =>
    intro i ab
    rw [Nat.succ_add, mixFrom_succ, ih, mixFrom_succ, Nat.add_assoc, Nat.add_comm 1 m]

/-- Round indices a whole table apart rotate by the same amount (10_state.md R35). -/
theorem rotAmount_add_table (i p : Nat) : rotAmount (16 * p + i) = rotAmount i := by
  simp [rotAmount, Config.rotN]

/-- With a round per block of none, absorption is xor alone (41_hash_wrapper.md R121). -/
theorem absorbWords_of_no_rounds {v : Variant} (h : Config.blockRounds v = 0) (a b w0 w1 : Word) :
    absorbWords v a b w0 w1 = (a ^^^ w0, b ^^^ w1) := by simp [absorbWords, mix, h]

end Sys2Proof.Machine

namespace Sys2Proof

/-- Bit by bit, a command word is `OP`, then `ARG`, then zeros (30_encoding.md R71). -/
theorem commandWord_getLsbD (op arg : BitVec 8) (j : Nat) :
    (commandWord op arg).getLsbD j = if j < 8 then op.getLsbD j else arg.getLsbD (j - 8) := by
  have e : commandWord op arg = (0 : BitVec 48) ++ (arg ++ op) := rfl
  rw [e, BitVec.getLsbD_append, BitVec.getLsbD_append]
  split
  · simp
  · rename_i h
    rw [if_neg (by omega), arg.getLsbD_of_ge (j - 8) (by omega)]
    simp

@[simp] theorem opField_commandWord (op arg : BitVec 8) : opField (commandWord op arg) = op := by
  ext i hi
  simp [opField, commandWord_getLsbD, hi]

@[simp] theorem argField_commandWord (op arg : BitVec 8) : argField (commandWord op arg) = arg := by
  ext i hi
  simp [argField, commandWord_getLsbD, hi]

@[simp] theorem rsvField_commandWord (op arg : BitVec 8) : rsvField (commandWord op arg) = 0 := by
  ext i hi
  have h : arg.getLsbD (16 + i - 8) = false := arg.getLsbD_of_ge _ (by omega)
  have h' : ¬ 16 + i < 8 := by omega
  simp [rsvField, commandWord_getLsbD, h, h']

end Sys2Proof
end

