-- ==== Sys2Proof/Laws/State.lean ====
section
/-! SUPPORT. What each named update of `State` leaves in each field: one lemma per field per update. -/

namespace Sys2Proof.Machine

section Respond

variable (r : Response) (s : State)

@[simp] theorem respond_a : (respond r s).a = s.a := rfl
@[simp] theorem respond_b : (respond r s).b = s.b := rfl
@[simp] theorem respond_useSeed : (respond r s).useSeed = s.useSeed := rfl
@[simp] theorem respond_wrapper : (respond r s).wrapper = s.wrapper := rfl
@[simp] theorem respond_error : (respond r s).error = s.error := rfl
@[simp] theorem respond_seed : (respond r s).seed = s.seed := rfl
@[simp] theorem respond_len : (respond r s).len = s.len := rfl
@[simp] theorem respond_din0 : (respond r s).din0 = s.din0 := rfl
@[simp] theorem respond_din1 : (respond r s).din1 = s.din1 := rfl
@[simp] theorem respond_out0 : (respond r s).out0 = s.out0 := rfl
@[simp] theorem respond_out1 : (respond r s).out1 = s.out1 := rfl
@[simp] theorem respond_remain : (respond r s).remain = s.remain := rfl
@[simp] theorem respond_lenl : (respond r s).lenl = s.lenl := rfl
@[simp] theorem respond_pending : (respond r s).pending = s.pending := rfl
@[simp] theorem respond_inReset : (respond r s).inReset = s.inReset := rfl
@[simp] theorem respond_requests : (respond r s).requests = s.requests := rfl
@[simp] theorem respond_response : (respond r s).response = some r := rfl
@[simp] theorem respond_draws : (respond r s).draws = s.draws := rfl
@[simp] theorem respond_latencies : (respond r s).latencies = s.latencies := rfl

end Respond

section ClearError

variable (s : State)

@[simp] theorem clearError_a : (clearError s).a = s.a := rfl
@[simp] theorem clearError_b : (clearError s).b = s.b := rfl
@[simp] theorem clearError_useSeed : (clearError s).useSeed = s.useSeed := rfl
@[simp] theorem clearError_wrapper : (clearError s).wrapper = s.wrapper := rfl
@[simp] theorem clearError_error : (clearError s).error = none := rfl
@[simp] theorem clearError_seed : (clearError s).seed = s.seed := rfl
@[simp] theorem clearError_len : (clearError s).len = s.len := rfl
@[simp] theorem clearError_din0 : (clearError s).din0 = s.din0 := rfl
@[simp] theorem clearError_din1 : (clearError s).din1 = s.din1 := rfl
@[simp] theorem clearError_out0 : (clearError s).out0 = s.out0 := rfl
@[simp] theorem clearError_out1 : (clearError s).out1 = s.out1 := rfl
@[simp] theorem clearError_remain : (clearError s).remain = s.remain := rfl
@[simp] theorem clearError_lenl : (clearError s).lenl = s.lenl := rfl
@[simp] theorem clearError_pending : (clearError s).pending = s.pending := rfl
@[simp] theorem clearError_inReset : (clearError s).inReset = s.inReset := rfl
@[simp] theorem clearError_requests : (clearError s).requests = s.requests := rfl
@[simp] theorem clearError_response : (clearError s).response = s.response := rfl
@[simp] theorem clearError_draws : (clearError s).draws = s.draws := rfl
@[simp] theorem clearError_latencies : (clearError s).latencies = s.latencies := rfl

end ClearError

section Accept

variable (op : Operation) (s : State)

@[simp] theorem accept_a : (accept op s).a = s.a := rfl
@[simp] theorem accept_b : (accept op s).b = s.b := rfl
@[simp] theorem accept_useSeed : (accept op s).useSeed = s.useSeed := rfl
@[simp] theorem accept_wrapper : (accept op s).wrapper = s.wrapper := rfl
@[simp] theorem accept_error : (accept op s).error = s.error := rfl
@[simp] theorem accept_seed : (accept op s).seed = s.seed := rfl
@[simp] theorem accept_len : (accept op s).len = s.len := rfl
@[simp] theorem accept_din0 : (accept op s).din0 = s.din0 := rfl
@[simp] theorem accept_din1 : (accept op s).din1 = s.din1 := rfl
@[simp] theorem accept_out0 : (accept op s).out0 = s.out0 := rfl
@[simp] theorem accept_out1 : (accept op s).out1 = s.out1 := rfl
@[simp] theorem accept_remain : (accept op s).remain = s.remain := rfl
@[simp] theorem accept_lenl : (accept op s).lenl = s.lenl := rfl
@[simp] theorem accept_pending : (accept op s).pending = some ⟨op, nextLatency s⟩ := rfl
@[simp] theorem accept_inReset : (accept op s).inReset = s.inReset := rfl
@[simp] theorem accept_requests : (accept op s).requests = s.requests := rfl
@[simp] theorem accept_response : (accept op s).response = s.response := rfl
@[simp] theorem accept_draws : (accept op s).draws = s.draws + 1 := rfl
@[simp] theorem accept_latencies : (accept op s).latencies = s.latencies.tail := rfl

end Accept

section AssertReset

variable (s : State)

@[simp] theorem assertReset_a : (assertReset s).a = 0 := rfl
@[simp] theorem assertReset_b : (assertReset s).b = 0 := rfl
@[simp] theorem assertReset_useSeed : (assertReset s).useSeed = true := rfl
@[simp] theorem assertReset_wrapper : (assertReset s).wrapper = .idle := rfl
@[simp] theorem assertReset_error : (assertReset s).error = none := rfl
@[simp] theorem assertReset_seed : (assertReset s).seed = 0 := rfl
@[simp] theorem assertReset_len : (assertReset s).len = 0 := rfl
@[simp] theorem assertReset_din0 : (assertReset s).din0 = 0 := rfl
@[simp] theorem assertReset_din1 : (assertReset s).din1 = 0 := rfl
@[simp] theorem assertReset_out0 : (assertReset s).out0 = 0 := rfl
@[simp] theorem assertReset_out1 : (assertReset s).out1 = 0 := rfl
@[simp] theorem assertReset_remain : (assertReset s).remain = 0 := rfl
@[simp] theorem assertReset_lenl : (assertReset s).lenl = 0 := rfl
@[simp] theorem assertReset_pending : (assertReset s).pending = none := rfl
@[simp] theorem assertReset_inReset : (assertReset s).inReset = true := rfl
@[simp] theorem assertReset_requests : (assertReset s).requests = s.requests := rfl
@[simp] theorem assertReset_response : (assertReset s).response = none := rfl
@[simp] theorem assertReset_draws : (assertReset s).draws = s.draws := rfl
@[simp] theorem assertReset_latencies : (assertReset s).latencies = s.latencies := rfl

end AssertReset

section ReleaseReset

variable (s : State)

@[simp] theorem releaseReset_a : (releaseReset s).a = s.a := rfl
@[simp] theorem releaseReset_b : (releaseReset s).b = s.b := rfl
@[simp] theorem releaseReset_useSeed : (releaseReset s).useSeed = s.useSeed := rfl
@[simp] theorem releaseReset_wrapper : (releaseReset s).wrapper = s.wrapper := rfl
@[simp] theorem releaseReset_error : (releaseReset s).error = s.error := rfl
@[simp] theorem releaseReset_seed : (releaseReset s).seed = s.seed := rfl
@[simp] theorem releaseReset_len : (releaseReset s).len = s.len := rfl
@[simp] theorem releaseReset_din0 : (releaseReset s).din0 = s.din0 := rfl
@[simp] theorem releaseReset_din1 : (releaseReset s).din1 = s.din1 := rfl
@[simp] theorem releaseReset_out0 : (releaseReset s).out0 = s.out0 := rfl
@[simp] theorem releaseReset_out1 : (releaseReset s).out1 = s.out1 := rfl
@[simp] theorem releaseReset_remain : (releaseReset s).remain = s.remain := rfl
@[simp] theorem releaseReset_lenl : (releaseReset s).lenl = s.lenl := rfl
@[simp] theorem releaseReset_pending : (releaseReset s).pending = s.pending := rfl
@[simp] theorem releaseReset_inReset : (releaseReset s).inReset = false := rfl
@[simp] theorem releaseReset_requests : (releaseReset s).requests = s.requests := rfl
@[simp] theorem releaseReset_response : (releaseReset s).response = s.response := rfl
@[simp] theorem releaseReset_draws : (releaseReset s).draws = s.draws := rfl
@[simp] theorem releaseReset_latencies : (releaseReset s).latencies = s.latencies := rfl

end ReleaseReset

section Tick

variable (p : Pending) (s : State)

@[simp] theorem tick_a : (tick p s).a = s.a := rfl
@[simp] theorem tick_b : (tick p s).b = s.b := rfl
@[simp] theorem tick_useSeed : (tick p s).useSeed = s.useSeed := rfl
@[simp] theorem tick_wrapper : (tick p s).wrapper = s.wrapper := rfl
@[simp] theorem tick_error : (tick p s).error = s.error := rfl
@[simp] theorem tick_seed : (tick p s).seed = s.seed := rfl
@[simp] theorem tick_len : (tick p s).len = s.len := rfl
@[simp] theorem tick_din0 : (tick p s).din0 = s.din0 := rfl
@[simp] theorem tick_din1 : (tick p s).din1 = s.din1 := rfl
@[simp] theorem tick_out0 : (tick p s).out0 = s.out0 := rfl
@[simp] theorem tick_out1 : (tick p s).out1 = s.out1 := rfl
@[simp] theorem tick_remain : (tick p s).remain = s.remain := rfl
@[simp] theorem tick_lenl : (tick p s).lenl = s.lenl := rfl
@[simp] theorem tick_pending : (tick p s).pending = some ⟨p.op, p.left - 1⟩ := rfl
@[simp] theorem tick_inReset : (tick p s).inReset = s.inReset := rfl
@[simp] theorem tick_requests : (tick p s).requests = s.requests := rfl
@[simp] theorem tick_response : (tick p s).response = s.response := rfl
@[simp] theorem tick_draws : (tick p s).draws = s.draws := rfl
@[simp] theorem tick_latencies : (tick p s).latencies = s.latencies := rfl

end Tick

section CompleteMix

variable (n : BitVec 8) (a b : Word) (s : State)

@[simp] theorem completeMix_a : (completeMix n a b s).a = (mix a b n.toNat).1 := rfl
@[simp] theorem completeMix_b : (completeMix n a b s).b = (mix a b n.toNat).2 := rfl
@[simp] theorem completeMix_useSeed : (completeMix n a b s).useSeed = s.useSeed := rfl
@[simp] theorem completeMix_wrapper : (completeMix n a b s).wrapper = s.wrapper := rfl
@[simp] theorem completeMix_error : (completeMix n a b s).error = s.error := rfl
@[simp] theorem completeMix_seed : (completeMix n a b s).seed = s.seed := rfl
@[simp] theorem completeMix_len : (completeMix n a b s).len = s.len := rfl
@[simp] theorem completeMix_din0 : (completeMix n a b s).din0 = s.din0 := rfl
@[simp] theorem completeMix_din1 : (completeMix n a b s).din1 = s.din1 := rfl
@[simp] theorem completeMix_out0 : (completeMix n a b s).out0 = s.out0 := rfl
@[simp] theorem completeMix_out1 : (completeMix n a b s).out1 = s.out1 := rfl
@[simp] theorem completeMix_remain : (completeMix n a b s).remain = s.remain := rfl
@[simp] theorem completeMix_lenl : (completeMix n a b s).lenl = s.lenl := rfl
@[simp] theorem completeMix_pending : (completeMix n a b s).pending = s.pending := rfl
@[simp] theorem completeMix_inReset : (completeMix n a b s).inReset = s.inReset := rfl
@[simp] theorem completeMix_requests : (completeMix n a b s).requests = s.requests := rfl
@[simp] theorem completeMix_response : (completeMix n a b s).response = s.response := rfl
@[simp] theorem completeMix_draws : (completeMix n a b s).draws = s.draws := rfl
@[simp] theorem completeMix_latencies : (completeMix n a b s).latencies = s.latencies := rfl

end CompleteMix

section CompleteStart

variable (v : Variant) (u : Bool) (sd : BitVec 32) (l : Word) (s : State)

@[simp] theorem completeStart_a : (completeStart v u sd l s).a = (seedState u sd).1 := rfl
@[simp] theorem completeStart_b : (completeStart v u sd l s).b = (seedState u sd).2 := rfl
@[simp] theorem completeStart_useSeed : (completeStart v u sd l s).useSeed = s.useSeed := rfl
@[simp] theorem completeStart_wrapper : (completeStart v u sd l s).wrapper = .absorb v := rfl
@[simp] theorem completeStart_error : (completeStart v u sd l s).error = s.error := rfl
@[simp] theorem completeStart_seed : (completeStart v u sd l s).seed = s.seed := rfl
@[simp] theorem completeStart_len : (completeStart v u sd l s).len = s.len := rfl
@[simp] theorem completeStart_din0 : (completeStart v u sd l s).din0 = s.din0 := rfl
@[simp] theorem completeStart_din1 : (completeStart v u sd l s).din1 = s.din1 := rfl
@[simp] theorem completeStart_out0 : (completeStart v u sd l s).out0 = s.out0 := rfl
@[simp] theorem completeStart_out1 : (completeStart v u sd l s).out1 = s.out1 := rfl
@[simp] theorem completeStart_remain : (completeStart v u sd l s).remain = l := rfl
@[simp] theorem completeStart_lenl : (completeStart v u sd l s).lenl = l := rfl
@[simp] theorem completeStart_pending : (completeStart v u sd l s).pending = s.pending := rfl
@[simp] theorem completeStart_inReset : (completeStart v u sd l s).inReset = s.inReset := rfl
@[simp] theorem completeStart_requests : (completeStart v u sd l s).requests = s.requests := rfl
@[simp] theorem completeStart_response : (completeStart v u sd l s).response = s.response := rfl
@[simp] theorem completeStart_draws : (completeStart v u sd l s).draws = s.draws := rfl
@[simp] theorem completeStart_latencies : (completeStart v u sd l s).latencies = s.latencies := rfl

end CompleteStart

section CompleteBlock

variable (d e r : Word) (v : Variant) (a b : Word) (s : State)

@[simp] theorem completeBlock_a : (completeBlock d e r v a b s).a = (absorbWords v a b (d &&& (chunkMask (chunkSize r)).1) (e &&& (chunkMask (chunkSize r)).2)).1 := rfl
@[simp] theorem completeBlock_b : (completeBlock d e r v a b s).b = (absorbWords v a b (d &&& (chunkMask (chunkSize r)).1) (e &&& (chunkMask (chunkSize r)).2)).2 := rfl
@[simp] theorem completeBlock_useSeed : (completeBlock d e r v a b s).useSeed = s.useSeed := rfl
@[simp] theorem completeBlock_wrapper : (completeBlock d e r v a b s).wrapper = s.wrapper := rfl
@[simp] theorem completeBlock_error : (completeBlock d e r v a b s).error = s.error := rfl
@[simp] theorem completeBlock_seed : (completeBlock d e r v a b s).seed = s.seed := rfl
@[simp] theorem completeBlock_len : (completeBlock d e r v a b s).len = s.len := rfl
@[simp] theorem completeBlock_din0 : (completeBlock d e r v a b s).din0 = s.din0 := rfl
@[simp] theorem completeBlock_din1 : (completeBlock d e r v a b s).din1 = s.din1 := rfl
@[simp] theorem completeBlock_out0 : (completeBlock d e r v a b s).out0 = s.out0 := rfl
@[simp] theorem completeBlock_out1 : (completeBlock d e r v a b s).out1 = s.out1 := rfl
@[simp] theorem completeBlock_remain : (completeBlock d e r v a b s).remain = r - BitVec.ofNat 64 (chunkSize r) := rfl
@[simp] theorem completeBlock_lenl : (completeBlock d e r v a b s).lenl = s.lenl := rfl
@[simp] theorem completeBlock_pending : (completeBlock d e r v a b s).pending = s.pending := rfl
@[simp] theorem completeBlock_inReset : (completeBlock d e r v a b s).inReset = s.inReset := rfl
@[simp] theorem completeBlock_requests : (completeBlock d e r v a b s).requests = s.requests := rfl
@[simp] theorem completeBlock_response : (completeBlock d e r v a b s).response = s.response := rfl
@[simp] theorem completeBlock_draws : (completeBlock d e r v a b s).draws = s.draws := rfl
@[simp] theorem completeBlock_latencies : (completeBlock d e r v a b s).latencies = s.latencies := rfl

end CompleteBlock

section CompleteFinish

variable (l : Word) (v : Variant) (a b : Word) (s : State)

@[simp] theorem completeFinish_a : (completeFinish l v a b s).a = (finalizePair v l a b).1 := rfl
@[simp] theorem completeFinish_b : (completeFinish l v a b s).b = (finalizePair v l a b).2 := rfl
@[simp] theorem completeFinish_useSeed : (completeFinish l v a b s).useSeed = s.useSeed := rfl
@[simp] theorem completeFinish_wrapper : (completeFinish l v a b s).wrapper = .done v := rfl
@[simp] theorem completeFinish_error : (completeFinish l v a b s).error = s.error := rfl
@[simp] theorem completeFinish_seed : (completeFinish l v a b s).seed = s.seed := rfl
@[simp] theorem completeFinish_len : (completeFinish l v a b s).len = s.len := rfl
@[simp] theorem completeFinish_din0 : (completeFinish l v a b s).din0 = s.din0 := rfl
@[simp] theorem completeFinish_din1 : (completeFinish l v a b s).din1 = s.din1 := rfl
@[simp] theorem completeFinish_out0 : (completeFinish l v a b s).out0 = (finalizePair v l a b).1 := rfl
@[simp] theorem completeFinish_out1 : (completeFinish l v a b s).out1 = (finalizePair v l a b).2 := rfl
@[simp] theorem completeFinish_remain : (completeFinish l v a b s).remain = s.remain := rfl
@[simp] theorem completeFinish_lenl : (completeFinish l v a b s).lenl = s.lenl := rfl
@[simp] theorem completeFinish_pending : (completeFinish l v a b s).pending = s.pending := rfl
@[simp] theorem completeFinish_inReset : (completeFinish l v a b s).inReset = s.inReset := rfl
@[simp] theorem completeFinish_requests : (completeFinish l v a b s).requests = s.requests := rfl
@[simp] theorem completeFinish_response : (completeFinish l v a b s).response = s.response := rfl
@[simp] theorem completeFinish_draws : (completeFinish l v a b s).draws = s.draws := rfl
@[simp] theorem completeFinish_latencies : (completeFinish l v a b s).latencies = s.latencies := rfl

end CompleteFinish

section CompleteAbort

variable (s : State)

@[simp] theorem completeAbort_a : (completeAbort s).a = s.a := rfl
@[simp] theorem completeAbort_b : (completeAbort s).b = s.b := rfl
@[simp] theorem completeAbort_useSeed : (completeAbort s).useSeed = s.useSeed := rfl
@[simp] theorem completeAbort_wrapper : (completeAbort s).wrapper = .idle := rfl
@[simp] theorem completeAbort_error : (completeAbort s).error = s.error := rfl
@[simp] theorem completeAbort_seed : (completeAbort s).seed = s.seed := rfl
@[simp] theorem completeAbort_len : (completeAbort s).len = s.len := rfl
@[simp] theorem completeAbort_din0 : (completeAbort s).din0 = s.din0 := rfl
@[simp] theorem completeAbort_din1 : (completeAbort s).din1 = s.din1 := rfl
@[simp] theorem completeAbort_out0 : (completeAbort s).out0 = s.out0 := rfl
@[simp] theorem completeAbort_out1 : (completeAbort s).out1 = s.out1 := rfl
@[simp] theorem completeAbort_remain : (completeAbort s).remain = 0 := rfl
@[simp] theorem completeAbort_lenl : (completeAbort s).lenl = 0 := rfl
@[simp] theorem completeAbort_pending : (completeAbort s).pending = s.pending := rfl
@[simp] theorem completeAbort_inReset : (completeAbort s).inReset = s.inReset := rfl
@[simp] theorem completeAbort_requests : (completeAbort s).requests = s.requests := rfl
@[simp] theorem completeAbort_response : (completeAbort s).response = s.response := rfl
@[simp] theorem completeAbort_draws : (completeAbort s).draws = s.draws := rfl
@[simp] theorem completeAbort_latencies : (completeAbort s).latencies = s.latencies := rfl

end CompleteAbort

/-! Recording an error writes the record alone (60_exceptions.md R155, R159). -/

theorem raiseError_eq (c : Cause) (i : Word) (s : State) :
    raiseError c i s = { s with error := if s.error.isNone then some ⟨c, i⟩ else s.error } := by
  cases s with
  | mk a b u w error => cases error <;> rfl

section RaiseError

variable (c : Cause) (i : Word) (s : State)

@[simp] theorem raiseError_a : (raiseError c i s).a = s.a := by rw [raiseError_eq]
@[simp] theorem raiseError_b : (raiseError c i s).b = s.b := by rw [raiseError_eq]
@[simp] theorem raiseError_useSeed : (raiseError c i s).useSeed = s.useSeed := by rw [raiseError_eq]
@[simp] theorem raiseError_wrapper : (raiseError c i s).wrapper = s.wrapper := by rw [raiseError_eq]
@[simp] theorem raiseError_error :
    (raiseError c i s).error = if s.error.isNone then some ⟨c, i⟩ else s.error := by rw [raiseError_eq]
@[simp] theorem raiseError_seed : (raiseError c i s).seed = s.seed := by rw [raiseError_eq]
@[simp] theorem raiseError_len : (raiseError c i s).len = s.len := by rw [raiseError_eq]
@[simp] theorem raiseError_din0 : (raiseError c i s).din0 = s.din0 := by rw [raiseError_eq]
@[simp] theorem raiseError_din1 : (raiseError c i s).din1 = s.din1 := by rw [raiseError_eq]
@[simp] theorem raiseError_out0 : (raiseError c i s).out0 = s.out0 := by rw [raiseError_eq]
@[simp] theorem raiseError_out1 : (raiseError c i s).out1 = s.out1 := by rw [raiseError_eq]
@[simp] theorem raiseError_remain : (raiseError c i s).remain = s.remain := by rw [raiseError_eq]
@[simp] theorem raiseError_lenl : (raiseError c i s).lenl = s.lenl := by rw [raiseError_eq]
@[simp] theorem raiseError_pending : (raiseError c i s).pending = s.pending := by rw [raiseError_eq]
@[simp] theorem raiseError_inReset : (raiseError c i s).inReset = s.inReset := by rw [raiseError_eq]
@[simp] theorem raiseError_requests : (raiseError c i s).requests = s.requests := by rw [raiseError_eq]
@[simp] theorem raiseError_response : (raiseError c i s).response = s.response := by rw [raiseError_eq]
@[simp] theorem raiseError_draws : (raiseError c i s).draws = s.draws := by rw [raiseError_eq]
@[simp] theorem raiseError_latencies : (raiseError c i s).latencies = s.latencies := by rw [raiseError_eq]

end RaiseError

/-! A register write stores in its own register alone (20_memory.md R57). -/

section StoreReg

variable (r : Reg) (v : Word) (s : State)

@[simp] theorem storeReg_wrapper : (storeReg r v s).wrapper = s.wrapper := by cases r <;> rfl
@[simp] theorem storeReg_error : (storeReg r v s).error = s.error := by cases r <;> rfl
@[simp] theorem storeReg_out0 : (storeReg r v s).out0 = s.out0 := by cases r <;> rfl
@[simp] theorem storeReg_out1 : (storeReg r v s).out1 = s.out1 := by cases r <;> rfl
@[simp] theorem storeReg_remain : (storeReg r v s).remain = s.remain := by cases r <;> rfl
@[simp] theorem storeReg_lenl : (storeReg r v s).lenl = s.lenl := by cases r <;> rfl
@[simp] theorem storeReg_pending : (storeReg r v s).pending = s.pending := by cases r <;> rfl
@[simp] theorem storeReg_inReset : (storeReg r v s).inReset = s.inReset := by cases r <;> rfl
@[simp] theorem storeReg_requests : (storeReg r v s).requests = s.requests := by cases r <;> rfl
@[simp] theorem storeReg_response : (storeReg r v s).response = s.response := by cases r <;> rfl
@[simp] theorem storeReg_draws : (storeReg r v s).draws = s.draws := by cases r <;> rfl
@[simp] theorem storeReg_latencies : (storeReg r v s).latencies = s.latencies := by cases r <;> rfl

end StoreReg

/-- A completion clears `BUSY` (20_memory.md R61). -/
@[simp] theorem complete_pending (op : Operation) (s : State) : (complete op s).pending = none := by cases op <;> rfl
@[simp] theorem complete_useSeed (op : Operation) (s : State) : (complete op s).useSeed = s.useSeed := by cases op <;> rfl
@[simp] theorem complete_error (op : Operation) (s : State) : (complete op s).error = s.error := by cases op <;> rfl
@[simp] theorem complete_seed (op : Operation) (s : State) : (complete op s).seed = s.seed := by cases op <;> rfl
@[simp] theorem complete_len (op : Operation) (s : State) : (complete op s).len = s.len := by cases op <;> rfl
@[simp] theorem complete_din0 (op : Operation) (s : State) : (complete op s).din0 = s.din0 := by cases op <;> rfl
@[simp] theorem complete_din1 (op : Operation) (s : State) : (complete op s).din1 = s.din1 := by cases op <;> rfl
@[simp] theorem complete_inReset (op : Operation) (s : State) : (complete op s).inReset = s.inReset := by cases op <;> rfl
@[simp] theorem complete_requests (op : Operation) (s : State) : (complete op s).requests = s.requests := by cases op <;> rfl
@[simp] theorem complete_response (op : Operation) (s : State) : (complete op s).response = s.response := by cases op <;> rfl
@[simp] theorem complete_draws (op : Operation) (s : State) : (complete op s).draws = s.draws := by cases op <;> rfl
@[simp] theorem complete_latencies (op : Operation) (s : State) : (complete op s).latencies = s.latencies := by cases op <;> rfl

end Sys2Proof.Machine
end

