-- ==== Sys2Proof/Laws/Ops.lean ====
section
/-! SUPPORT. What each shared operation can do, said once: recording an error, issuing a command, a read, a write, a host
action, a step. -/

namespace Sys2Proof.Machine

/-! Recording an error -/

theorem raiseError_of_none {s : State} (c : Cause) (i : Word) (h : s.error = none) :
    raiseError c i s = { s with error := some ⟨c, i⟩ } := by simp [raiseError_eq, h]

theorem raiseError_of_some {s : State} {e : ErrorRecord} (c : Cause) (i : Word) (h : s.error = some e) :
    raiseError c i s = s := by
  unfold raiseError
  rw [h]

/-! Busy -/

@[simp] theorem busy_of_none {s : State} (h : s.pending = none) : s.busy = false := by simp [State.busy, h]

@[simp] theorem busy_of_some {s : State} {p : Pending} (h : s.pending = some p) : s.busy = true := by
  simp [State.busy, h]

/-! Issuing a command -/

/-- The operands the command `i` samples at `s`, or none where its sequence check fails. -/
def sampleOf (i : Instr) (s : State) : Option Operation :=
  match i with
  | .nop => sampleNop s
  | .mix n => sampleMix n s
  | .startV1 => sampleStart .v1 s
  | .startV2 => sampleStart .v2 s
  | .startV3 => sampleStart .v3 s
  | .startV4 => sampleStart .v4 s
  | .startV5 => sampleStart .v5 s
  | .startV6 => sampleStart .v6 s
  | .block => sampleBlock s
  | .finish => sampleFinish s
  | .abort => sampleAbort s

/-- BLOCK and FINISH alone have a sequence check (R79, R153). -/
theorem sampleOf_eq_none {i : Instr} {s : State} : sampleOf i s = none ↔
    (i = .block ∧ ¬ (s.wrapper.phaseCode = 1 ∧ s.remain ≠ 0)) ∨
      (i = .finish ∧ ¬ (s.wrapper.phaseCode = 1 ∧ s.remain = 0)) := by
  cases i <;> cases hw : s.wrapper <;>
    simp [sampleOf, sampleNop, sampleMix, sampleStart, sampleBlock, sampleFinish, sampleAbort, Wrapper.phaseCode, hw]

/-- Every command is issued in the same way, with operands of its own. -/
theorem exec_eq_issue (i : Instr) (s : State) : exec i s = issue i (sampleOf i s) s := by cases i <;> rfl

theorem issue_of_busy {s : State} {p : Pending} (i : Instr) (o : Option Operation) (h : s.pending = some p) :
    issue i o s = .next (raiseError .busyCmd (encode i) s) := by simp [issue, State.busy, h]

theorem issue_of_none {s : State} (i : Instr) (h : s.pending = none) :
    issue i none s = .next (raiseError .sequence (encode i) s) := by simp [issue, State.busy, h]

theorem issue_of_some {s : State} (i : Instr) (op : Operation) (h : s.pending = none) :
    issue i (some op) s = .next (accept op s) := by simp [issue, State.busy, h]

/-- All that the issue of a command can do. -/
theorem issue_cases (i : Instr) (o : Option Operation) (s : State) :
    (s.pending ≠ none ∧ issue i o s = .next (raiseError .busyCmd (encode i) s)) ∨
    (s.pending = none ∧ o = none ∧ issue i o s = .next (raiseError .sequence (encode i) s)) ∨
    (∃ op, s.pending = none ∧ o = some op ∧ issue i o s = .next (accept op s)) := by
  cases hp : s.pending with
  | some p => exact .inl ⟨by simp, issue_of_busy i o hp⟩
  | none =>
    cases o with
    | none => exact .inr (.inl ⟨rfl, rfl, issue_of_none i hp⟩)
    | some op => exact .inr (.inr ⟨op, rfl, rfl, issue_of_some i op hp⟩)

/-! The register window -/

@[simp] theorem regAt_offset (r : Reg) : regAt r.offset = some r := by cases r <;> rfl

/-- An aligned offset is a register's or reserved (20_memory.md R51). -/
theorem regAt_cases : ∀ off : BitVec 8, off.toNat % 8 = 0 →
    (∃ r : Reg, off = r.offset ∧ regAt off = some r) ∨ (0x88 ≤ off.toNat ∧ regAt off = none) := by
  intro off h
  have key : ∀ o : BitVec 8, o.toNat % 8 = 0 →
      (regAt o).elim (decide (0x88 ≤ o.toNat)) (fun r => decide (o = r.offset)) = true := by decide +kernel
  have h := key off h
  cases hr : regAt off with
  | some r => rw [hr] at h; exact .inl ⟨r, by simpa using h, rfl⟩
  | none => rw [hr] at h; exact .inr ⟨by simpa using h, rfl⟩

theorem accessWellFormed_iff (off size : BitVec 8) :
    accessWellFormed off size = true ↔ size = 8 ∧ off.toNat % 8 = 0 := by
  simp [accessWellFormed, Config.accessBytes]

/-- All that a read can do: it answers, it may record `ACCESS`, and a read while busy may take a draw (R56, R58). -/
theorem memRead_cases (off size : BitVec 8) (s : State) :
    (accessWellFormed off size = false ∧
      memRead off size s = respond (.readData 0 true) (raiseError .access (accessInfo false off size) s)) ∨
    (accessWellFormed off size = true ∧ regAt off = none ∧ memRead off size s = respond (.readData 0 false) s) ∨
    (∃ r, accessWellFormed off size = true ∧ regAt off = some r ∧
      (s.busy = false ∨ readWhileBusy r (Config.freeWord s.draws) s = none) ∧
      memRead off size s = respond (.readData (readReg r s) false) s) ∨
    (∃ r v, accessWellFormed off size = true ∧ regAt off = some r ∧ s.busy = true ∧
      readWhileBusy r (Config.freeWord s.draws) s = some v ∧
      memRead off size s = respond (.readData v false) { s with draws := s.draws + 1 }) := by
  unfold memRead
  cases hw : accessWellFormed off size with
  | false => exact .inl ⟨rfl, rfl⟩
  | true =>
    refine .inr ?_
    cases hr : regAt off with
    | none => exact .inl ⟨rfl, rfl, rfl⟩
    | some r =>
      refine .inr ?_
      cases hb : s.busy with
      | false => exact .inl ⟨r, rfl, rfl, .inl rfl, by simp⟩
      | true =>
        cases hd : readWhileBusy r (Config.freeWord s.draws) s with
        | none => exact .inl ⟨r, rfl, rfl, .inr hd, by simp [hd]⟩
        | some v => exact .inr ⟨r, v, rfl, rfl, rfl, hd, by simp [hd]⟩

/-- A read leaves everything alone but the response, the draw counter and, when malformed, the error record (R58). -/
theorem memRead_frame (off size : BitVec 8) (s : State) :
    memRead off size s = { s with
      response := (memRead off size s).response
      draws := (memRead off size s).draws
      error := (memRead off size s).error } := by
  rcases memRead_cases off size s with ⟨_, h⟩ | ⟨_, _, h⟩ | ⟨r, _, _, _, h⟩ | ⟨r, v, _, _, _, _, h⟩ <;> rw [h]
  · rw [raiseError_eq]; rfl
  all_goals rfl

/-! The host's actions -/

theorem hostActs_access {s : State} (t : Transaction) (h : s.inReset = false) :
    hostActs (.access t) s = transact t s := by simp [hostActs, h]

theorem hostActs_poll {s : State} (h : s.inReset = false) : hostActs .poll s = .next (pollOnce s) := by
  simp [hostActs, h]

theorem hostActs_access_inReset {s : State} (t : Transaction) (h : s.inReset = true) :
    hostActs (.access t) s = .fault .transactionDuringReset := by simp [hostActs, h]

theorem hostActs_poll_inReset {s : State} (h : s.inReset = true) :
    hostActs .poll s = .fault .transactionDuringReset := by simp [hostActs, h]

/-! The step -/

/-- An operation whose busy time is over completes. -/
theorem step_of_due {s : State} {op : Operation} (h : s.pending = some ⟨op, 0⟩) : step s = .next (complete op s) := by
  simp [step, stepBlock, h]

/-- While an operation runs on, the port serves. -/
theorem step_of_running {s : State} {p : Pending} (h : s.pending = some p) (hl : p.left ≠ 0) :
    step s = servePort (tick p s) := by
  simp [step, stepBlock, h, hl]

/-- While nothing is pending, the port serves. -/
theorem step_of_idle {s : State} (h : s.pending = none) : step s = servePort s := by simp [step, stepBlock, h]

/-- The state in which the port serves: the operation in progress is one step nearer to its end. -/
def serving (s : State) : State := { s with pending := s.pending.map fun p => ⟨p.op, p.left - 1⟩ }

/-- All that a step can be: a completion, or the port's service with no completion due. -/
theorem step_cases (s : State) :
    (∃ op, s.pending = some ⟨op, 0⟩ ∧ step s = .next (complete op s)) ∨
    ((∀ p, s.pending = some p → p.left ≠ 0) ∧ step s = servePort (serving s)) := by
  cases hp : s.pending with
  | none =>
    refine .inr ⟨by simp, ?_⟩
    rw [step_of_idle hp]
    simp [serving, hp]
    cases s; simp_all
  | some p =>
    by_cases hl : p.left = 0
    · obtain ⟨op, n⟩ := p
      simp only at hl
      subst hl
      exact .inl ⟨op, rfl, step_of_due hp⟩
    · refine .inr ⟨by rintro q hq; cases hq; exact hl, ?_⟩
      rw [step_of_running hp hl]
      simp [serving, hp, tick]

/-- The step that serves `action`, given that no completion is due. -/
theorem step_of_action {s : State} {action : HostAction} {rest : List HostAction}
    (hp : ∀ p, s.pending = some p → p.left ≠ 0) (hr : s.requests = action :: rest) :
    step s = hostActs action { serving s with requests := rest } := by
  rcases step_cases s with ⟨op, h, _⟩ | ⟨_, h⟩
  · exact absurd rfl (hp _ h)
  · rw [h]; simp [servePort, serving, hr]

/-- The step with nothing asked of the port, given that no completion is due. -/
theorem step_of_quiet {s : State} (hp : ∀ p, s.pending = some p → p.left ≠ 0) (hr : s.requests = []) :
    step s = .next (serving s) := by
  rcases step_cases s with ⟨op, h, _⟩ | ⟨_, h⟩
  · exact absurd rfl (hp _ h)
  · rw [h]; simp [servePort, serving, hr]

end Sys2Proof.Machine
end

