-- ==== Sys2Proof/Laws/PerInstr.lean ====
section
/-! SUPPORT. Facts about every command as syntax, one lemma per constructor. -/

namespace Sys2Proof.Laws.EncodedFields

/-- The opcode of each command, and no bit set outside `OP` and `ARG` (30_encoding.md R71, R73). -/
def opcodeOf : Instr → BitVec 8
  | .nop => 0x00
  | .mix _ => 0x01
  | .startV1 | .startV2 | .startV3 | .startV4 | .startV5 | .startV6 => 0x02
  | .block => 0x03
  | .finish => 0x04
  | .abort => 0x05

/-- A command is well formed, and its word has its opcode in `OP` and zero in `RSV`. -/
def Statement (i : Instr) : Prop :=
  i.wellFormed = true ∧ opField (encode i) = opcodeOf i ∧ rsvField (encode i) = 0

theorem nop : Statement .nop := ⟨rfl, by simp [encode, opcodeOf], by simp [encode]⟩
theorem mix (n : BitVec 8) : Statement (.mix n) :=
  ⟨decide_eq_true (Nat.le_of_lt_succ n.isLt), by simp [encode, opcodeOf],
    by simp [encode]⟩
theorem startV1 : Statement .startV1 := ⟨rfl, by simp [encode, opcodeOf], by simp [encode]⟩
theorem startV2 : Statement .startV2 := ⟨rfl, by simp [encode, opcodeOf], by simp [encode]⟩
theorem startV3 : Statement .startV3 := ⟨rfl, by simp [encode, opcodeOf], by simp [encode]⟩
theorem startV4 : Statement .startV4 := ⟨rfl, by simp [encode, opcodeOf], by simp [encode]⟩
theorem startV5 : Statement .startV5 := ⟨rfl, by simp [encode, opcodeOf], by simp [encode]⟩
theorem startV6 : Statement .startV6 := ⟨rfl, by simp [encode, opcodeOf], by simp [encode]⟩
theorem block : Statement .block := ⟨rfl, by simp [encode, opcodeOf], by simp [encode]⟩
theorem finish : Statement .finish := ⟨rfl, by simp [encode, opcodeOf], by simp [encode]⟩
theorem abort : Statement .abort := ⟨rfl, by simp [encode, opcodeOf], by simp [encode]⟩

end Sys2Proof.Laws.EncodedFields
end

