-- ==== Sys2Proof/Laws/Step.lean ====
section
/-! SUPPORT. All that a step can do, said once: `step_inversion`. An invariant or a frame is a case analysis of it. -/

namespace Sys2Proof.Machine

/-- What the port can have done in a step in which no operation completes: `Served s t`, from `s` to `t`. Each constructor names
the host action at the head of the queue, the checks that passed and the state that follows. -/
inductive Served (s : State) : State → Prop where
  /-- Nothing was asked. -/
  | quiet (hr : s.requests = []) : Served s (serving s)
  /-- Reset was asserted. -/
  | assertReset (rest : List HostAction) (hr : s.requests = .assertReset :: rest) :
      Served s (assertReset { s with requests := rest })
  /-- Reset was released. -/
  | releaseReset (rest : List HostAction) (hr : s.requests = .releaseReset :: rest) :
      Served s (releaseReset { serving s with requests := rest })
  /-- A read, well formed or not. -/
  | read (rest : List HostAction) (off size : BitVec 8) (hr : s.requests = .access (.read off size) :: rest)
      (hn : s.inReset = false) : Served s (memRead off size { serving s with requests := rest })
  /-- One turn of `poll`. -/
  | poll (rest : List HostAction) (hr : s.requests = .poll :: rest) (hn : s.inReset = false) :
      Served s (pollOnce { serving s with requests := rest })
  /-- A malformed write. -/
  | badWrite (rest : List HostAction) (off size : BitVec 8) (v : Word)
      (hr : s.requests = .access (.write off size v) :: rest) (hn : s.inReset = false)
      (hw : accessWellFormed off size = false) :
      Served s (respond (.written true) (raiseError .access (accessInfo true off size) { serving s with requests := rest }))
  /-- A write to `STATUS`. -/
  | writeStatus (rest : List HostAction) (size : BitVec 8) (v : Word)
      (hr : s.requests = .access (.write Reg.status.offset size v) :: rest) (hn : s.inReset = false)
      (hw : accessWellFormed Reg.status.offset size = true) :
      Served s (
        if clearsError v then clearError (respond (.written false) { serving s with requests := rest })
        else respond (.written false) { serving s with requests := rest })
  /-- A write to `CMD` that raised an error: the cause is `BUSY_CMD` exactly while busy; otherwise the word is illegal or its
  command's sequence check fails. -/
  | refusedCommand (rest : List HostAction) (size : BitVec 8) (v : Word) (cause : Cause) (info : Word)
      (hr : s.requests = .access (.write Reg.cmd.offset size v) :: rest) (hn : s.inReset = false)
      (hw : accessWellFormed Reg.cmd.offset size = true) (hc : cause = .busyCmd ↔ s.pending ≠ none)
      (hwhy : s.pending ≠ none ∨ (∃ why, decode v = .illegal why) ∨ ∃ i, decode v = .command i ∧ sampleOf i s = none) :
      Served s (raiseError cause info (respond (.written false) { serving s with requests := rest }))
  /-- A write to `CMD` of a legal word that was accepted. -/
  | acceptedCommand (rest : List HostAction) (size : BitVec 8) (v : Word) (i : Instr) (op : Operation)
      (hr : s.requests = .access (.write Reg.cmd.offset size v) :: rest) (hn : s.inReset = false)
      (hw : accessWellFormed Reg.cmd.offset size = true) (hp : s.pending = none) (hd : decode v = .command i)
      (ho : sampleOf i s = some op) :
      Served s (accept op (respond (.written false) { s with requests := rest }))
  /-- Any other write while busy, to an offset other than that of `STATUS`. -/
  | busyWrite (rest : List HostAction) (off size : BitVec 8) (v : Word)
      (hr : s.requests = .access (.write off size v) :: rest) (hn : s.inReset = false)
      (hw : accessWellFormed off size = true) (hp : s.pending ≠ none) (hs : regAt off ≠ some .status) :
      Served s (raiseError .busyWrite (offsetInfo off) (respond (.written false) { serving s with requests := rest }))
  /-- A register write while not busy. -/
  | store (rest : List HostAction) (size : BitVec 8) (r : Reg) (v : Word)
      (hr : s.requests = .access (.write r.offset size v) :: rest) (hn : s.inReset = false)
      (hw : accessWellFormed r.offset size = true) (hp : s.pending = none) :
      Served s (storeReg r v (respond (.written false) { s with requests := rest }))
  /-- A write to a reserved offset while not busy. -/
  | reserved (rest : List HostAction) (off size : BitVec 8) (v : Word)
      (hr : s.requests = .access (.write off size v) :: rest) (hn : s.inReset = false)
      (hw : accessWellFormed off size = true) (hp : s.pending = none) :
      Served s (respond (.written false) { s with requests := rest })

theorem serving_of_none {s : State} (h : s.pending = none) : serving s = s := by
  cases s
  simp only at h
  subst h
  rfl

/-- The sampled operands look neither at the port nor at the operation in progress. -/
theorem sampleOf_port (i : Instr) (s : State) (rest : List HostAction) (r : Response) :
    sampleOf i (respond r { serving s with requests := rest }) = sampleOf i s := by cases i <;> rfl

theorem regAt_eq_some {off : BitVec 8} {r : Reg} (h : regAt off = some r) : off = r.offset := by
  have key : ∀ o : BitVec 8, (regAt o).all (fun q => decide (o = q.offset)) = true := by decide +kernel
  have := key off
  rw [h] at this
  simpa using this

theorem served_of_command {s t : State} {rest : List HostAction} {size : BitVec 8} {v : Word}
    (hr : s.requests = .access (.write Reg.cmd.offset size v) :: rest) (hn : s.inReset = false)
    (hw : accessWellFormed Reg.cmd.offset size = true)
    (h : writeCommand v (respond (.written false) { serving s with requests := rest }) = .next t) : Served s t := by
  unfold writeCommand at h
  split at h
  case h_1 i hd =>
    rw [exec_eq_issue, sampleOf_port] at h
    rcases issue_cases i (sampleOf i s) (respond (.written false) { serving s with requests := rest }) with 
        ⟨hp, h'⟩ | ⟨hp, ho, h'⟩ | ⟨op, hp, ho, h'⟩
    · rw [h'] at h; cases h
      exact .refusedCommand rest size v _ _ hr hn hw (by simpa [serving] using hp) (.inl (by simpa [serving] using hp))
    · rw [h'] at h; cases h
      exact .refusedCommand rest size v _ _ hr hn hw (by simpa [serving] using hp) (.inr (.inr ⟨i, hd, ho⟩))
    · rw [h'] at h; cases h
      have hp' : s.pending = none := by simpa [serving] using hp
      rw [serving_of_none hp']
      exact .acceptedCommand rest size v i op hr hn hw hp' hd ho
  case h_2 why hd =>
    split at h <;> rename_i hb <;> cases h
    · exact .refusedCommand rest size v _ _ hr hn hw (by simpa [State.busy, serving, ← Option.ne_none_iff_isSome] using hb)
        (.inr (.inl ⟨why, hd⟩))
    · exact .refusedCommand rest size v _ _ hr hn hw (by simpa [State.busy, serving] using hb)
        (.inr (.inl ⟨why, hd⟩))

theorem served_of_write {s t : State} {rest : List HostAction} {off size : BitVec 8} {v : Word}
    (hr : s.requests = .access (.write off size v) :: rest) (hn : s.inReset = false)
    (h : memWrite off size v { serving s with requests := rest } = .next t) : Served s t := by
  unfold memWrite at h
  split at h
  case isTrue hw => cases h; exact .badWrite rest off size v hr hn hw
  case isFalse hw =>
    have hw : accessWellFormed off size = true := by simpa using hw
    have hb : (respond (.written false) { serving s with requests := rest }).busy = s.pending.isSome := by
      simp [State.busy, serving]
    unfold writeWindow at h
    split at h
    case h_1 ho =>
      cases regAt_eq_some ho; cases h
      exact .writeStatus rest size v hr hn hw
    case h_2 ho =>
      cases regAt_eq_some ho
      exact served_of_command hr hn hw h
    case h_3 r hs _ ho =>
      cases regAt_eq_some ho
      rw [hb] at h
      split at h <;> rename_i hp <;> cases h
      · exact .busyWrite rest _ size v hr hn hw (by simpa [Option.ne_none_iff_isSome] using hp) (by rw [ho]; simpa using hs)
      · have hp' : s.pending = none := by simpa using hp
        rw [serving_of_none hp']
        exact .store rest size r v hr hn hw hp'
    case h_4 ho =>
      rw [hb] at h
      split at h <;> rename_i hp <;> cases h
      · exact .busyWrite rest off size v hr hn hw (by simpa [Option.ne_none_iff_isSome] using hp) (by simp [ho])
      · have hp' : s.pending = none := by simpa using hp
        rw [serving_of_none hp']
        exact .reserved rest off size v hr hn hw hp'

/-- All that a step to a next state can be. -/
theorem step_inversion {s t : State} (h : step s = .next t) :
    (∃ op, s.pending = some ⟨op, 0⟩ ∧ t = complete op s) ∨
    ((∀ p, s.pending = some p → p.left ≠ 0) ∧ Served s t) := by
  rcases step_cases s with ⟨op, hp, h'⟩ | ⟨hp, _⟩
  · rw [h'] at h; cases h
    exact .inl ⟨op, hp, rfl⟩
  · refine .inr ⟨hp, ?_⟩
    cases hr : s.requests with
    | nil => rw [step_of_quiet hp hr] at h; cases h; exact .quiet hr
    | cons action rest =>
      rw [step_of_action hp hr] at h
      cases action with
      | assertReset => cases h; exact .assertReset rest hr
      | releaseReset => cases h; exact .releaseReset rest hr
      | poll =>
        cases hn : s.inReset with
        | true => rw [hostActs_poll_inReset (s := { serving s with requests := rest }) hn] at h; cases h
        | false =>
          rw [hostActs_poll (s := { serving s with requests := rest }) hn] at h; cases h
          exact .poll rest hr hn
      | access t =>
        cases hn : s.inReset with
        | true => rw [hostActs_access_inReset (s := { serving s with requests := rest }) t hn] at h; cases h
        | false =>
          rw [hostActs_access (s := { serving s with requests := rest }) t hn] at h
          cases t with
          | read off size => cases h; exact .read rest off size hr hn
          | write off size v => exact served_of_write hr hn h

/-- One turn of `poll` changes what a read changes, and the queue. -/
theorem pollOnce_frame (s : State) :
    pollOnce s = { s with
      response := (pollOnce s).response
      draws := (pollOnce s).draws
      requests := (pollOnce s).requests } := by
  have hw : accessWellFormed Reg.status.offset Config.accessBytes = true := by decide
  unfold pollOnce
  rcases memRead_cases Reg.status.offset Config.accessBytes s with ⟨h, _⟩ | ⟨_, _, h⟩ | ⟨r, _, _, _, h⟩ | ⟨r, v, _, _, _, _, h⟩
  · rw [hw] at h; cases h
  all_goals
    rw [h]
    dsimp only
    split <;> rfl

end Sys2Proof.Machine
end

