-- ==== Sys2Proof/Laws/Window.lean ====
section
/-! SUPPORT. What a read or a write of the window is, case by case (20_memory.md R55 to R57), and what one more step does
to a run. -/

namespace Sys2Proof.Machine

/-- An 8-byte access at a multiple of 8 is well formed (R55). -/
theorem accessWellFormed_of_aligned {off : BitVec 8} (h : off.toNat % 8 = 0) : accessWellFormed off 8 = true :=
  (accessWellFormed_iff off 8).2 ⟨rfl, h⟩

@[simp] theorem accessWellFormed_offset (r : Reg) : accessWellFormed r.offset 8 = true := by cases r <;> rfl

/-- Any other access is malformed (R55). -/
theorem accessWellFormed_eq_false {off size : BitVec 8} (h : size ≠ 8 ∨ off.toNat % 8 ≠ 0) :
    accessWellFormed off size = false := by
  rw [Bool.eq_false_iff, ne_eq, accessWellFormed_iff]
  tauto

theorem memRead_malformed {off size : BitVec 8} (s : State) (h : accessWellFormed off size = false) :
    memRead off size s = respond (.readData 0 true) (raiseError .access (accessInfo false off size) s) := by
  simp only [memRead, h, if_true]

theorem memRead_reserved {off : BitVec 8} (s : State) (h : off.toNat % 8 = 0) (hr : regAt off = none) :
    memRead off 8 s = respond (.readData 0 false) s := by
  simp only [memRead, accessWellFormed_of_aligned h, hr]; rfl

theorem memRead_idle {s : State} (r : Reg) (h : s.pending = none) :
    memRead r.offset 8 s = respond (.readData (readReg r s) false) s := by
  simp only [memRead, accessWellFormed_offset, regAt_offset, busy_of_none h]; rfl

theorem memRead_exact {s : State} {p : Pending} (r : Reg) (h : s.pending = some p)
    (hx : readWhileBusy r (Config.freeWord s.draws) s = none) :
    memRead r.offset 8 s = respond (.readData (readReg r s) false) s := by
  simp only [memRead, accessWellFormed_offset, regAt_offset, busy_of_some h, hx]; rfl

theorem memRead_drawn {s : State} {p : Pending} {v : Word} (r : Reg) (h : s.pending = some p)
    (hx : readWhileBusy r (Config.freeWord s.draws) s = some v) :
    memRead r.offset 8 s = respond (.readData v false) { s with draws := s.draws + 1 } := by
  simp only [memRead, accessWellFormed_offset, regAt_offset, busy_of_some h, hx]; rfl

theorem memWrite_malformed {off size : BitVec 8} (v : Word) (s : State) (h : accessWellFormed off size = false) :
    memWrite off size v s = .next (respond (.written true) (raiseError .access (accessInfo true off size) s)) := by
  simp only [memWrite, h, if_true]

theorem memWrite_status (v : Word) (s : State) :
    memWrite Reg.status.offset 8 v s =
      .next (if clearsError v then clearError (respond (.written false) s) else respond (.written false) s) := rfl

theorem memWrite_cmd (v : Word) (s : State) :
    memWrite Reg.cmd.offset 8 v s = writeCommand v (respond (.written false) s) := rfl

theorem memWrite_busy {s : State} {p : Pending} (r : Reg) (v : Word) (h : s.pending = some p) (hs : r ≠ .status)
    (hc : r ≠ .cmd) :
    memWrite r.offset 8 v s =
      .next (raiseError .busyWrite (offsetInfo r.offset) (respond (.written false) s)) := by
  have hb : (respond (.written false) s).busy = true := busy_of_some (p := p) h
  cases r <;> first | exact absurd rfl hs | exact absurd rfl hc | skip
  all_goals simp only [memWrite, accessWellFormed_offset, writeWindow, regAt_offset, hb]; rfl

theorem memWrite_idle {s : State} (r : Reg) (v : Word) (h : s.pending = none) (hs : r ≠ .status) (hc : r ≠ .cmd) :
    memWrite r.offset 8 v s = .next (storeReg r v (respond (.written false) s)) := by
  have hb : (respond (.written false) s).busy = false := busy_of_none h
  cases r <;> first | exact absurd rfl hs | exact absurd rfl hc | skip
  all_goals simp only [memWrite, accessWellFormed_offset, writeWindow, regAt_offset, hb]; rfl

theorem memWrite_reserved_busy {s : State} {p : Pending} {off : BitVec 8} (v : Word) (ha : off.toNat % 8 = 0)
    (hr : regAt off = none) (h : s.pending = some p) :
    memWrite off 8 v s = .next (raiseError .busyWrite (offsetInfo off) (respond (.written false) s)) := by
  have hb : (respond (.written false) s).busy = true := busy_of_some (p := p) h
  simp only [memWrite, accessWellFormed_of_aligned ha, writeWindow, hr, hb]; rfl

theorem memWrite_reserved_idle {s : State} {off : BitVec 8} (v : Word) (ha : off.toNat % 8 = 0) (hr : regAt off = none)
    (h : s.pending = none) : memWrite off 8 v s = .next (respond (.written false) s) := by
  have hb : (respond (.written false) s).busy = false := busy_of_none h
  simp only [memWrite, accessWellFormed_of_aligned ha, writeWindow, hr, hb]; rfl

/-- Bit 0 of `STATUS` is `BUSY`, drawn fields or not (R23, R56). -/
@[simp] theorem packStatus_bit_zero (busy : Bool) (ph : BitVec 2) (v : BitVec 3) (e : Bool) (c : BitVec 4) :
    (packStatus busy ph v e c).getLsbD 0 = busy := by
  simp only [packStatus, BitVec.getLsbD_append]
  cases busy <;> rfl

@[simp] theorem statusWord_bit_zero (s : State) : (statusWord s).getLsbD 0 = s.busy := packStatus_bit_zero _ _ _ _ _

@[simp] theorem statusWordDrawn_bit_zero (d : Word) (s : State) : (statusWordDrawn d s).getLsbD 0 = s.busy :=
  packStatus_bit_zero _ _ _ _ _

/-- One turn of `poll` while not busy ends it. -/
theorem pollOnce_idle {s : State} (h : s.pending = none) :
    pollOnce s = respond (.readData (statusWord s) false) s := by
  have hm : memRead Reg.status.offset Config.accessBytes s = respond (.readData (statusWord s) false) s :=
    memRead_idle .status h
  have hb : responseBusyBit (respond (.readData (statusWord s) false) s) = false :=
    (statusWord_bit_zero s).trans (busy_of_none h)
  simp only [pollOnce, hm, hb]; rfl

/-- One turn of `poll` while busy asks again. -/
theorem pollOnce_busy {s : State} {p : Pending} (h : s.pending = some p) :
    pollOnce s = { respond (.readData (statusWordDrawn (Config.freeWord s.draws) s) false) { s with draws := s.draws + 1 } with
      requests := .poll :: s.requests } := by
  have hm : memRead Reg.status.offset Config.accessBytes s =
      respond (.readData (statusWordDrawn (Config.freeWord s.draws) s) false) { s with draws := s.draws + 1 } :=
    memRead_drawn .status h rfl
  have hb : responseBusyBit (respond (.readData (statusWordDrawn (Config.freeWord s.draws) s) false)
      { s with draws := s.draws + 1 }) = true :=
    (statusWordDrawn_bit_zero _ s).trans (busy_of_some h)
  simp only [pollOnce, hm, hb]; rfl

/-- The ROM's two read-only copies (10_state.md R36). -/
@[simp] theorem romWord_zero : romWord 0 = 0x35180B200D15270C := by decide

@[simp] theorem romWord_eight : romWord 8 = 0x083408320D391B11 := by decide

/-- A run of no step stays. -/
theorem run_zero (s : State) : Host.Core.run Sys2Proof.core 0 s = .next s := rfl

/-- On any machine, a run that begins with the step from `s` to `t` goes on from `t`. -/
theorem run_succ_of_core (M : Host.Core) {s t : M.State} (n : Nat) (h : M.step s = .next t) :
    M.run (n + 1) s = M.run n t := by
  simp only [Host.Core.run, h]

/-- A run that begins with the step from `s` to `t` goes on from `t`. -/
theorem run_succ {s t : State} (n : Nat) (h : step s = .next t) :
    Host.Core.run Sys2Proof.core (n + 1) s = Host.Core.run Sys2Proof.core n t :=
  run_succ_of_core Sys2Proof.core n h

end Sys2Proof.Machine
end

