-- ==== Sys2Proof/Tests/Slice0.lean ====
section
/-! SUPPORT. The model's own tests. Every expected value is the spec's own (95_test_vectors.md V1 to V89, 30_encoding.md R83,
the examples of R104, R127, R129, R131) or written out by hand from the encoding of 30_encoding.md R70 to R76. Then a witness for
the hypotheses of every statement that has some. -/

open Sys2Proof Sys2Proof.Machine

namespace Sys2Proof.Tests

/-- The next state of an outcome, if it has one. -/
def nextOf (o : Host.Outcome State Fault Refusal) : Option State :=
  match o with
  | .next t => some t
  | .fault _ => none
  | .refused _ => none

/-- The state after the step that serves `action` alone. -/
def serve (s : State) (action : HostAction) : Option State := nextOf (step { s with requests := [action] })

/-- The state at the completion of the command `i`, accepted at `s` with a busy time of 0. -/
def finished (i : Instr) (s : State) : Option State := (nextOf (exec i { s with latencies := [0] })).bind fun t => nextOf (step t)

/-- `cause` and `ERRINFO` of a recorded error. -/
def recorded (o : Option State) : Option (Option (Cause × Word)) := o.map fun t => t.error.map fun e => (e.cause, e.info)

/-- The data and the error indication of a read's response. -/
def readBack (o : Option State) : Option (Word × Bool) :=
  o.bind fun t => match t.response with
    | some (.readData d e) => some (d, e)
    | some (.written _) => none
    | none => none

/-- Registers `A` and `B`. -/
def pairOf (o : Option State) : Option (Word × Word) := o.map fun t => (t.a, t.b)

/-- Not busy, with `A` and `B` as given. -/
def withPair (a b : Word) : State := { State.reset with a := a, b := b }

/-- Not busy, in `ABSORB` under `v`, with `remain` of `lenl` bytes to come and every other register nonzero. -/
def absorbing (v : Variant) (lenl remain : Word) : State :=
  { State.reset with
    wrapper := .absorb v, lenl := lenl, remain := remain, a := 3, b := 4, din0 := 5, din1 := 6, out0 := 7, out1 := 8,
    seed := 9, len := 10 }

/-- Not busy, in `DONE` under `v`. -/
def finishedHash (v : Variant) : State := { absorbing v 17 0 with wrapper := .done v }

/-- Busy with a MIX for `n` more steps. -/
def busyMixing (n : Nat) : State := { absorbing .v3 32 16 with pending := some ⟨.mix 2 3 4, n⟩ }

/-! The well-formedness checks refuse ill-formed terms. `Instr.wellFormed` refuses none: the operand's type is the encoding's
range. -/

theorem test_word_check_refuses_reserved_bits : commandWordLegal 0x0001000000000003 = false := by decide
theorem test_word_check_refuses_reserved_opcode :
    commandWordLegal 0x06 = false ∧ commandWordLegal 0xFF = false := by decide
theorem test_word_check_refuses_variant_0_and_7 :
    commandWordLegal 0x0002 = false ∧ commandWordLegal 0x0702 = false := by decide
theorem test_word_check_refuses_argument :
    commandWordLegal 0x0100 = false ∧ commandWordLegal 0x0103 = false ∧ commandWordLegal 0x8004 = false ∧
      commandWordLegal 0x0105 = false := by decide
theorem test_word_check_accepts : commandWordLegal 0xFF01 = true ∧ commandWordLegal 0x0602 = true ∧
    commandWordLegal 0x0005 = true := by decide
theorem test_source_check_refuses : SourceCommand.wellFormed (.mix 256) = false ∧
    SourceCommand.wellFormed (.start 0) = false ∧ SourceCommand.wellFormed (.start 7) = false := by decide
theorem test_source_check_accepts : SourceCommand.wellFormed (.mix 255) = true ∧
    SourceCommand.wellFormed (.start 1) = true ∧ SourceCommand.wellFormed (.start 6) = true := by decide
theorem test_access_check_refuses : accessWellFormed 0x38 4 = false ∧ accessWellFormed 0x0C 8 = false ∧
    accessWellFormed 0x40 16 = false ∧ accessWellFormed 0x40 0 = false := by decide
theorem test_access_check_accepts : accessWellFormed 0xF8 8 = true := by decide
theorem test_instr_check_accepts : Instr.wellFormed (.mix 255) = true ∧ Instr.wellFormed .startV6 = true := by decide

/-! Decoding: words written out from R71 to R73 (V30 to V39). -/

theorem test_decode_nop : decode 0x0000000000000000 = .command .nop := by decide
theorem test_decode_mix_0 : decode 0x0000000000000001 = .command (.mix 0) := by decide
theorem test_decode_mix_255 : decode 0x000000000000FF01 = .command (.mix 255) := by decide
theorem test_decode_starts :
    ([0x0102, 0x0202, 0x0302, 0x0402, 0x0502, 0x0602].map decode) =
      [.command .startV1, .command .startV2, .command .startV3, .command .startV4, .command .startV5,
        .command .startV6] := by decide
theorem test_decode_block : decode 0x0000000000000003 = .command .block := by decide
theorem test_decode_finish : decode 0x0000000000000004 = .command .finish := by decide
theorem test_decode_abort : decode 0x0000000000000005 = .command .abort := by decide
theorem test_decode_bad_variants : decode 0x0002 = .illegal .badArgument ∧ decode 0x0702 = .illegal .badArgument := by decide
theorem test_decode_bad_arguments : decode 0x0103 = .illegal .badArgument ∧ decode 0x0100 = .illegal .badArgument := by decide
theorem test_decode_reserved_opcodes :
    decode 0x06 = .illegal .reservedOpcode ∧ decode 0xFF = .illegal .reservedOpcode := by decide
theorem test_decode_reserved_bits : decode 0x0001000000000003 = .illegal .reservedBits ∧
    decode 0x8000000000000C01 = .illegal .reservedBits := by decide
theorem test_decode_bytes : decodeBytes [0x01, 0x0C, 0, 0, 0, 0, 0, 0] = .command (.mix 12) ∧
    decodeBytes [0x01, 0x0C, 0, 0, 0, 0, 0] = .illegal .notEightBytes := by decide
theorem test_decodeTableWord : decodeTableWord 64 0x0602 = some .startV6 ∧ decodeTableWord 64 0x0C01 = some (.mix 12) ∧
    decodeTableWord 64 0x0702 = none := by decide
theorem test_withFetchWord_runs_the_word :
    ((nextOf (step (State.reset.withFetchWord 64 0x0C01))).bind fun t => t.pending.map Pending.op) =
      some (.mix 12 0 0) := by decide

/-! One or two tests per command. -/

/-- R105: NOP leaves every register as it was. -/
theorem test_nop : finished .nop (absorbing .v2 17 1) = some { absorbing .v2 17 1 with draws := 1 } := by decide
/-- V10. -/
theorem test_mix_1 : pairOf (finished (.mix 1) (withPair 0 1)) = some (0x2, 0x1002) := by decide +kernel
/-- V13. -/
theorem test_mix_4 : pairOf (finished (.mix 4) (withPair 0x0123456789ABCDEF 0xFEDCBA9876543210)) =
    some (0x3D9CFD984DEC762F, 0x9D0AB3C558F274F7) := by decide +kernel
/-- V16, the example of R127. -/
theorem test_startV1_seed_0 : pairOf (finished .startV1 (withPair 9 9)) =
    some (0x86F49923AC18560A, 0x81E192F3F0CD45C1) := by decide +kernel
/-- V17. -/
theorem test_startV2_seed_1 : pairOf (finished .startV2 { State.reset with seed := 1 }) =
    some (0xE616A4DB4A6D211C, 0x95E5B0D77D678AF4) := by decide +kernel
/-- R127, R128: seeding disabled leaves `(0, 0)`. -/
theorem test_startV3_unseeded : pairOf (finished .startV3 { absorbing .v1 17 1 with useSeed := false }) = some (0, 0) := by
  decide +kernel
/-- V24. -/
theorem test_startV4_seed : pairOf (finished .startV4 { State.reset with seed := 0x12345678 }) =
    some (0x5DBF7B689C62B3C3, 0x5BF4B76F0CC54EE5) := by decide +kernel
/-- V25: the seed is zero-extended. -/
theorem test_startV5_seed : pairOf (finished .startV5 { State.reset with seed := 0xFFFFFFFF }) =
    some (0x683D794B21210667, 0x70738C369B1871B3) := by decide +kernel
/-- V67: START in `DONE`; `OUT0` and `OUT1` stay. -/
theorem test_startV6_in_done :
    ((finished .startV6 (finishedHash .v1)).map fun t => (t.wrapper, t.lenl, t.remain, t.out0, t.out1)) =
      some (.absorb .v6, 10, 10, 7, 8) := by decide +kernel
/-- The example of R129: "ABCDE" under variant 1, seed 0. -/
theorem test_block_abcde :
    ((finished .block { absorbing .v1 5 5 with
      a := 0x86F49923AC18560A, b := 0x81E192F3F0CD45C1, din0 := 0x0000004544434241, din1 := 0 }).map fun t =>
        (t.a, t.b, t.remain)) = some (0x86F49966E85B144B, 0x81E192F3F0CD45C1, 0) := by decide +kernel
/-- V62. -/
theorem test_block_nothing_remains : recorded (nextOf (exec .block (absorbing .v1 17 0))) = some (some (.sequence, 0x3)) := by
  decide
/-- V43 and the example of R131. -/
theorem test_finish_abcde :
    ((finished .finish { absorbing .v1 5 0 with a := 0x86F49966E85B144B, b := 0x81E192F3F0CD45C1 }).map fun t =>
      (t.out0, t.out1, t.wrapper)) = some (0xE2DC2A61E28D89C2, 0xCD6FA6F5ECCAB65D, .done .v1) := by decide +kernel
/-- V63. -/
theorem test_finish_bytes_remain : recorded (nextOf (exec .finish (absorbing .v1 17 17))) = some (some (.sequence, 0x4)) := by
  decide
/-- V68. -/
theorem test_abort : finished .abort (absorbing .v3 17 7) =
    some { absorbing .v3 17 7 with wrapper := .idle, lenl := 0, remain := 0, draws := 1 } := by decide
/-- V69. -/
theorem test_abort_idle : finished .abort State.reset = some { State.reset with draws := 1 } := by decide

/-! Whole messages (V43, V46). -/

/-- "0123456789abcdefg". -/
def key17 : List Byte :=
  [0x30, 0x31, 0x32, 0x33, 0x34, 0x35, 0x36, 0x37, 0x38, 0x39, 0x61, 0x62, 0x63, 0x64, 0x65, 0x66, 0x67]

/-- V46, 17 bytes, seed 0x12345678, variant 5. -/
theorem test_hash_v5 : hashOf .v5 key17 0x12345678 true = (0xD0C9F116812391AD, 0x55597A2563A6927E) := by
  decide +kernel
/-- V46, the same key and seed, variant 6. -/
theorem test_hash_v6 : hashOf .v6 key17 0x12345678 true = (0x81DE8004D0913DAB, 0xBE7F0D154C47E861) := by decide +kernel
/-- V43, "ABCDE", seed 0, variant 5. -/
theorem test_hash_v5_short :
    hashOf .v5 [0x41, 0x42, 0x43, 0x44, 0x45] 0 true = (0xE3B1A688F6DAF2EF, 0x3D80A5DF61297212) := by decide +kernel

/-! The register window (V70 to V89). -/

/-- V70. -/
theorem test_rd_rot : readBack (serve State.reset (hostRd .rot0)) = some (0x35180B200D15270C, false) ∧
    readBack (serve State.reset (hostRd .rot1)) = some (0x083408320D391B11, false) := by decide
/-- V71. -/
theorem test_rd_id : readBack (serve State.reset (hostRd .id)) = some (0x0000000148585241, false) := by decide
/-- V72. -/
theorem test_rd_after_reset : readBack (serve State.reset (hostRd .status)) = some (0, false) ∧
    readBack (serve State.reset (hostRd .ctrl)) = some (1, false) := by decide
/-- V73. -/
theorem test_wr_seed : (serve State.reset (hostWr .seed 0xFFFFFFFF12345678)).map (readReg .seed) = some 0x12345678 := by decide
/-- V74. -/
theorem test_wr_ctrl : (serve State.reset (hostWr .ctrl 0xFFFFFFFFFFFFFFFE)).map (readReg .ctrl) = some 0 := by decide
/-- V75. -/
theorem test_reserved_offset : (serve State.reset (.access (.write 0x90 8 5))).map (fun t => t.error) = some none ∧
    readBack (serve State.reset (.access (.read 0x90 8))) = some (0, false) := by decide
/-- V76. -/
theorem test_wr_read_only : (serve (finishedHash .v1) (hostWr .out0 5)).map (fun t => (t.out0, t.error)) = some (7, none) := by
  decide
/-- V78. -/
theorem test_rd_malformed : readBack (serve (absorbing .v1 5 5) (.access (.read 0x04 4))) = some (0, true) ∧
    recorded (serve (absorbing .v1 5 5) (.access (.read 0x04 4))) = some (some (.access, 0x404)) := by decide
/-- V79. -/
theorem test_wr_malformed : recorded (serve State.reset (.access (.write 0x38 1 3))) = some (some (.access, 0x10138)) := by decide
/-- V80. -/
theorem test_rd_unaligned : recorded (serve State.reset (.access (.read 0x0C 8))) = some (some (.access, 0x80C)) := by decide
/-- V81. -/
theorem test_illegal_command : recorded (serve State.reset (hostWr .cmd 0x0702)) = some (some (.illegalCmd, 0x702)) := by decide
/-- V82. -/
theorem test_first_error_wins :
    recorded (serve { State.reset with error := some ⟨.sequence, 3⟩ } (hostWr .cmd 0x0702)) = some (some (.sequence, 3)) := by
  decide
/-- V83 and V86. -/
theorem test_busy_command : recorded (serve (busyMixing 3) (hostWr .cmd 0)) = some (some (.busyCmd, 0)) ∧
    recorded (serve (busyMixing 3) (hostWr .cmd 0x0702)) = some (some (.busyCmd, 0x702)) := by decide
/-- V84 and V85. -/
theorem test_busy_write : recorded (serve (busyMixing 3) (hostWr .len 9)) = some (some (.busyWrite, 0x20)) ∧
    recorded (serve (busyMixing 3) (.access (.write 0x90 8 1))) = some (some (.busyWrite, 0x90)) := by decide
/-- V87. -/
theorem test_busy_malformed : recorded (serve (busyMixing 3) (.access (.write 0x38 4 0))) = some (some (.access, 0x10438)) := by
  decide
/-- V88. -/
theorem test_clrerr : recorded (serve { busyMixing 3 with error := some ⟨.access, 1⟩ } hostClrerr) = some none := by decide

/-! Witnesses: for each statement with hypotheses, states and operands that meet them all together, clause by clause. -/

/-- No completion is due in a state with nothing pending. -/
theorem not_due_of_none {s : State} (h : s.pending = none) : ∀ p, s.pending = some p → p.left ≠ 0 := by
  intro p hp
  rw [h] at hp
  cases hp

/-- No completion is due while `n + 1` busy steps remain. -/
theorem not_due_busyMixing (n : Nat) (l : List HostAction) :
    ∀ p, ({ busyMixing (n + 1) with requests := l } : State).pending = some p → p.left ≠ 0 := by
  intro p hp
  cases hp
  exact Nat.succ_ne_zero n

theorem witness_DecodeOfEncodeIsTheCommand :
    (.mix 0 : Instr).wellFormed = true ∧ (.mix 255 : Instr).wellFormed = true ∧ (.nop : Instr).wellFormed = true ∧
      Instr.startV1.wellFormed = true ∧ Instr.startV6.wellFormed = true ∧ Instr.block.wellFormed = true ∧
      Instr.finish.wellFormed = true ∧ Instr.abort.wellFormed = true := by decide

theorem witness_EncodeOfDecodeIsTheWord :
    decode 0xFF01 = .command (.mix 255) ∧ decode 0x0001 = .command (.mix 0) ∧ decode 0x0602 = .command .startV6 := by decide

theorem witness_IllegalWordsRaiseIllegalCmd :
    (∃ (s : State) (rest : List HostAction) (w : Word), s.pending = none ∧ s.inReset = false ∧
      s.requests = .access (.write 0x38 8 w) :: rest ∧ ∃ why, decode w = .illegal why) ∧
    (∃ why, decode 0x8000000000000001 = .illegal why) ∧ (∃ why, decode 0x06 = .illegal why) ∧
    (∃ why, decode 0x0702 = .illegal why) ∧ (∃ why, decode 0x0100 = .illegal why) :=
  ⟨⟨{ State.reset with requests := [hostWr .cmd 0x0002] }, [], 0x0002, rfl, rfl, rfl, .badArgument, by decide⟩,
    ⟨.reservedBits, by decide⟩, ⟨.reservedOpcode, by decide⟩, ⟨.badArgument, by decide⟩, ⟨.badArgument, by decide⟩⟩

theorem witness_OpcodeTableRowsAreDisjointAndComplete :
    (∃ r₁ ∈ opcodeTable, ∃ r₂ ∈ opcodeTable,
      (0xFF01 : Word) &&& r₁.mask = r₁.pattern ∧ (0xFF01 : Word) &&& r₂.mask = r₂.pattern) :=
  ⟨⟨"mix", 0x0001, 0xFFFFFFFFFFFF00FF⟩, by decide, ⟨"mix", 0x0001, 0xFFFFFFFFFFFF00FF⟩, by decide, by decide, by decide⟩

theorem witness_RotateLeftMovesBits : (∃ r : Nat, 1 ≤ r ∧ r ≤ 63) ∧ ∃ r j : Nat, r ≤ 63 ∧ j < 64 :=
  ⟨⟨63, by decide⟩, 63, 0, by decide⟩

theorem witness_ChunkMaskKeepsTheFirstBytes :
    (∃ k t : Nat, 1 ≤ k ∧ k ≤ 16 ∧ t < 8) ∧
      ∃ (k : Nat) (c : List Byte), 1 ≤ k ∧ k ≤ 16 ∧ c.length = 16 :=
  ⟨⟨1, 7, by decide⟩, 16, List.replicate 16 0xFF, by decide⟩

theorem witness_NopRunsToCompletion :
    State.reset.pending = none ∧ (∃ u : State, u.pending = some ⟨.nop, 0⟩) ∧ (busyMixing 0).pending = some ⟨.mix 2 3 4, 0⟩ ∧
      ((0x0100 : Word).extractLsb' 0 8 = 0x00 ∧ (0x0100 : Word).extractLsb' 8 8 ≠ 0) :=
  ⟨rfl, ⟨{ State.reset with pending := some ⟨.nop, 0⟩ }, rfl⟩, rfl, by decide⟩

theorem witness_MixRunsToCompletion :
    (withPair 1 2).pending = none ∧ (∃ u : State, u.pending = some ⟨.mix 255 1 2, 0⟩) ∧
      ((0x0001000000000001 : Word).extractLsb' 0 8 = 0x01 ∧ (0x0001000000000001 : Word).extractLsb' 16 48 ≠ 0) :=
  ⟨rfl, ⟨{ withPair 1 2 with pending := some ⟨.mix 255 1 2, 0⟩ }, rfl⟩, by decide⟩

theorem witness_StartRunsToCompletion :
    (finishedHash .v1).pending = none ∧ (∃ u : State, u.pending = some ⟨.start .v6 true 9 10, 0⟩) ∧
      (((0x0702 : Word).extractLsb' 0 8 = 0x02) ∧
        ¬ (1 ≤ ((0x0702 : Word).extractLsb' 8 8).toNat ∧ ((0x0702 : Word).extractLsb' 8 8).toNat ≤ 6)) :=
  ⟨rfl, ⟨{ State.reset with pending := some ⟨.start .v6 true 9 10, 0⟩ }, rfl⟩, by decide⟩

theorem witness_BlockRunsToCompletion :
    (∃ (v : Variant) (s : State), s.pending = none ∧ s.wrapper = .absorb v ∧ s.remain ≠ 0) ∧
    (∃ s : State, s.pending = none ∧ ∀ v, s.wrapper ≠ .absorb v) ∧
    (∃ s : State, s.pending = none ∧ s.wrapper = .absorb .v6 ∧ s.remain = 0) ∧
    ((0x0103 : Word).extractLsb' 0 8 = 0x03 ∧ (0x0103 : Word).extractLsb' 8 8 ≠ 0) :=
  ⟨⟨.v4, absorbing .v4 17 1, rfl, rfl, by decide⟩,
    ⟨finishedHash .v2, rfl, fun v h => by cases h⟩, ⟨absorbing .v6 17 0, rfl, rfl, rfl⟩, by decide⟩

theorem witness_FinishRunsToCompletion :
    (∃ (v : Variant) (s : State), s.pending = none ∧ s.wrapper = .absorb v ∧ s.remain = 0) ∧
    (∃ s : State, s.pending = none ∧ ∀ v, s.wrapper ≠ .absorb v) ∧
    (∃ s : State, s.pending = none ∧ s.wrapper = .absorb .v1 ∧ s.remain ≠ 0) ∧
    ((0x0104 : Word).extractLsb' 0 8 = 0x04 ∧ (0x0104 : Word).extractLsb' 8 8 ≠ 0) :=
  ⟨⟨.v1, absorbing .v1 17 0, rfl, rfl, rfl⟩, ⟨State.reset, rfl, fun v h => by cases h⟩,
    ⟨absorbing .v1 17 17, rfl, rfl, by decide⟩, by decide⟩

theorem witness_AbortRunsToCompletion :
    (absorbing .v3 17 7).pending = none ∧ (∃ u : State, u.pending = some ⟨.abort, 0⟩) ∧
      ((0x0105 : Word).extractLsb' 0 8 = 0x05 ∧ (0x0105 : Word).extractLsb' 8 8 ≠ 0) :=
  ⟨rfl, ⟨{ State.reset with pending := some ⟨.abort, 0⟩ }, rfl⟩, by decide⟩

/-- While not busy and while busy. -/
theorem witness_StepRunsTheDecodedCommand :
    (∃ (s : State) (rest : List HostAction) (w : Word) (i : Instr), s.inReset = false ∧
      (∀ p, s.pending = some p → p.left ≠ 0) ∧ s.requests = .access (.write 0x38 8 w) :: rest ∧ decode w = .command i) ∧
    (∃ (s : State) (rest : List HostAction) (w : Word) (i : Instr), s.inReset = false ∧ s.pending ≠ none ∧
      (∀ p, s.pending = some p → p.left ≠ 0) ∧ s.requests = .access (.write 0x38 8 w) :: rest ∧ decode w = .command i) :=
  ⟨⟨{ State.reset with requests := [hostWr .cmd 0xFF01] }, [], 0xFF01, .mix 255, rfl, not_due_of_none rfl, rfl, by decide⟩,
    { busyMixing 1 with requests := [hostWr .cmd 0x5] }, [], 0x5, .abort, rfl, by decide, not_due_busyMixing 0 _, rfl,
    by decide⟩

/-- A write and a read at any offset, and the offsets of `CMD`, of `STATUS` and the last reserved one are aligned. -/
theorem witness_WritesWhileBusyAreRefused :
    (∀ (off : BitVec 8) (v : Word), ∃ (s : State) (p : Pending), s.pending = some p ∧ p.left ≠ 0 ∧ s.inReset = false ∧
      s.requests = .access (.write off 8 v) :: []) ∧
    (∀ off : BitVec 8, ∃ (s : State) (p : Pending), s.pending = some p ∧ p.left ≠ 0 ∧ s.inReset = false ∧
      s.requests = .access (.read off 8) :: []) ∧
    (0x38 : BitVec 8).toNat % 8 = 0 ∧ (0x10 : BitVec 8).toNat % 8 = 0 ∧ (0xF8 : BitVec 8).toNat % 8 = 0 :=
  ⟨fun off v => ⟨{ busyMixing 1 with requests := [.access (.write off 8 v)] }, _, rfl, Nat.one_ne_zero, rfl, rfl⟩,
    fun off => ⟨{ busyMixing 1 with requests := [.access (.read off 8)] }, _, rfl, Nat.one_ne_zero, rfl, rfl⟩,
    by decide, by decide, by decide⟩

theorem witness_StatusWriteClearsTheRecord :
    ∃ (s : State) (rest : List HostAction) (v : Word), s.inReset = false ∧ (∀ p, s.pending = some p → p.left ≠ 0) ∧
      s.requests = .access (.write 0x10 8 v) :: rest :=
  ⟨{ busyMixing 1 with requests := [hostClrerr] }, [], 0x100, rfl, not_due_busyMixing 0 _, rfl⟩

/-- A read of half a register, an unaligned read of 8 bytes, a write of one byte. -/
theorem witness_MalformedAccessRaisesAccess :
    (∃ s : State, s.inReset = false ∧ (∀ p, s.pending = some p → p.left ≠ 0) ∧
      s.requests = .access (.read 0x04 4) :: [] ∧ ((4 : BitVec 8) ≠ 8 ∨ (0x04 : BitVec 8).toNat % 8 ≠ 0)) ∧
    (∃ s : State, s.inReset = false ∧ (∀ p, s.pending = some p → p.left ≠ 0) ∧
      s.requests = .access (.read 0xFF 8) :: [] ∧ ((8 : BitVec 8) ≠ 8 ∨ (0xFF : BitVec 8).toNat % 8 ≠ 0)) ∧
    (∃ s : State, s.inReset = false ∧ (∀ p, s.pending = some p → p.left ≠ 0) ∧
      s.requests = .access (.write 0x38 1 3) :: [] ∧ ((1 : BitVec 8) ≠ 8 ∨ (0x38 : BitVec 8).toNat % 8 ≠ 0)) :=
  ⟨⟨{ State.reset with requests := [.access (.read 0x04 4)] }, rfl, not_due_of_none rfl, rfl, by decide⟩,
    ⟨{ busyMixing 1 with requests := [.access (.read 0xFF 8)] }, rfl, not_due_busyMixing 0 _, rfl, by decide⟩,
    { State.reset with requests := [.access (.write 0x38 1 3)] }, rfl, not_due_of_none rfl, rfl, by decide⟩

/-- A step whose write meets the given offset, size and data, with no error recorded before it. -/
def checkedWrite (s : State) (off size : BitVec 8) (v : Word) : Prop :=
  s.inReset = false ∧ (∀ p, s.pending = some p → p.left ≠ 0) ∧ s.error = none ∧
    s.requests = .access (.write off size v) :: [] ∧ ∃ t, step s = .next t

/-- One state for each branch: malformed, `STATUS`, busy, illegal, the two sequence checks, accepted, a register. -/
theorem witness_ChecksRunInTheirOrder :
    checkedWrite { busyMixing 1 with requests := [.access (.write 0x10 4 1)] } 0x10 4 1 ∧
    checkedWrite { busyMixing 1 with requests := [.access (.write 0x10 8 1)] } 0x10 8 1 ∧
    checkedWrite { busyMixing 1 with requests := [.access (.write 0x38 8 0x0702)] } 0x38 8 0x0702 ∧
    checkedWrite { busyMixing 1 with requests := [.access (.write 0xF8 8 1)] } 0xF8 8 1 ∧
    checkedWrite { State.reset with requests := [.access (.write 0x38 8 0x0702)] } 0x38 8 0x0702 ∧
    checkedWrite { absorbing .v1 17 0 with requests := [.access (.write 0x38 8 3)] } 0x38 8 3 ∧
    checkedWrite { absorbing .v1 17 17 with requests := [.access (.write 0x38 8 4)] } 0x38 8 4 ∧
    checkedWrite { absorbing .v1 17 17 with requests := [.access (.write 0x38 8 3)] } 0x38 8 3 ∧
    checkedWrite { absorbing .v1 17 17 with requests := [.access (.write 0x80 8 3)] } 0x80 8 3 := by
  refine ⟨?_, ?_, ?_, ?_, ?_, ?_, ?_, ?_, ?_⟩
  iterate 4 exact ⟨rfl, not_due_busyMixing 0 _, rfl, rfl, _, rfl⟩
  all_goals exact ⟨rfl, not_due_of_none rfl, rfl, rfl, _, rfl⟩

theorem witness_FirstErrorWins :
    (∃ (s t : State) (e : ErrorRecord), s.error = some e ∧ step s = .next t ∧ t.error = some e) ∧
    (∃ (s t : State) (e : ErrorRecord), s.error = some e ∧ step s = .next t ∧ t.error = none) :=
  ⟨⟨{ State.reset with error := some ⟨.sequence, 3⟩, requests := [hostWr .cmd 0x0702] }, _, ⟨.sequence, 3⟩, rfl, rfl, rfl⟩,
    { State.reset with error := some ⟨.sequence, 3⟩, requests := [hostClrerr] }, _, ⟨.sequence, 3⟩, rfl, rfl, rfl⟩

theorem witness_ErrorsArePrecise :
    ∃ (s t : State) (e : ErrorRecord), s.error = none ∧ step s = .next t ∧ t.error = some e :=
  ⟨{ busyMixing 1 with requests := [hostWr .len 9] }, _, ⟨.busyWrite, 0x20⟩, rfl, rfl, rfl⟩

/-- `ID`, the last register, `ERRINFO`, and the first and last reserved offsets. -/
theorem witness_ReadsReturnTheRegisters :
    (∀ off : BitVec 8, ∃ s : State, s.pending = none ∧ s.inReset = false ∧ s.requests = .access (.read off 8) :: []) ∧
    ((0x00 : BitVec 8), (0x0000000148585241 : Word)) ∈ [((0x00 : BitVec 8), (0x0000000148585241 : Word))] ∧
    ((0x88 : BitVec 8).toNat % 8 = 0 ∧ 0x88 ≤ (0x88 : BitVec 8).toNat) ∧
    ((0xF8 : BitVec 8).toNat % 8 = 0 ∧ 0x88 ≤ (0xF8 : BitVec 8).toNat) :=
  ⟨fun off => ⟨{ absorbing .v1 17 1 with requests := [.access (.read off 8)] }, rfl, rfl, rfl⟩, by decide, by decide, by decide⟩

theorem witness_ReadsWhileBusyAreFree :
    ∀ off : BitVec 8, ∃ (s : State) (p : Pending), s.pending = some p ∧ p.left ≠ 0 ∧ s.inReset = false ∧
      s.requests = .access (.read off 8) :: [] :=
  fun off => ⟨{ busyMixing 1 with requests := [.access (.read off 8)] }, _, rfl, Nat.one_ne_zero, rfl, rfl⟩

theorem witness_WritesStoreTheirRegister :
    ∀ (off : BitVec 8) (v : Word), ∃ s t : State, s.pending = none ∧ s.inReset = false ∧
      s.requests = .access (.write off 8 v) :: [] ∧ t = { s with requests := [], response := some (.written false) } :=
  fun off v => ⟨{ absorbing .v1 17 1 with requests := [.access (.write off 8 v)] }, _, rfl, rfl, rfl, rfl⟩

theorem witness_ReadsHaveNoSideEffects :
    ∃ (s t : State) (rest : List HostAction) (off : BitVec 8), s.inReset = false ∧
      (∀ p, s.pending = some p → p.left ≠ 0) ∧ off.toNat % 8 = 0 ∧ s.requests = .access (.read off 8) :: rest ∧
      step s = .next t :=
  ⟨{ busyMixing 1 with requests := [.access (.read 0x40 8)] }, _, [], 0x40, rfl, not_due_busyMixing 0 _, by decide, rfl, rfl⟩

/-- A completion that changes `A`, `B`, `OUT0`, `OUT1` and the phase, and a host write that changes `DIN0`. -/
theorem witness_OnlyTheirWritersChangeRegisters :
    (∃ s t : State, step s = .next t ∧ t.out0 ≠ s.out0 ∧ t.wrapper ≠ s.wrapper) ∧
    (∃ s t : State, step s = .next t ∧ t.din0 ≠ s.din0) ∧
    (∃ s t : State, step s = .next t ∧ t.remain ≠ s.remain ∧ t.lenl ≠ s.lenl) :=
  ⟨⟨{ absorbing .v1 0 0 with pending := some ⟨.finish 0 .v1 0 0xFFFFFFFFFFFFFFFF, 0⟩ }, _, rfl, by decide +kernel, by decide +kernel⟩,
    ⟨{ State.reset with requests := [hostWr .din0 5] }, _, rfl, by decide⟩,
    { absorbing .v1 17 7 with pending := some ⟨.abort, 0⟩ }, _, rfl, by decide, by decide⟩

/-- The error record changes by a clear, a malformed read, a write while busy, an illegal word, a BLOCK and a FINISH out of
sequence, and reset. -/
theorem witness_OnlyTheirWritersChangeRegisters_error :
    (∃ s t : State, s.requests = [.access (.write 0x10 8 0x100)] ∧ step s = .next t ∧ t.error ≠ s.error) ∧
    (∃ s t : State, s.requests = [.access (.read 0xFF 8)] ∧ step s = .next t ∧ t.error ≠ s.error) ∧
    (∃ s t : State, s.pending ≠ none ∧ s.requests = [.access (.write 0xF8 8 1)] ∧ step s = .next t ∧ t.error ≠ s.error) ∧
    (∃ s t : State, s.requests = [.access (.write 0x38 8 0x0702)] ∧ step s = .next t ∧ t.error ≠ s.error) ∧
    (∃ s t : State, s.requests = [.access (.write 0x38 8 3)] ∧ step s = .next t ∧ t.error ≠ s.error) ∧
    (∃ s t : State, s.requests = [.access (.write 0x38 8 4)] ∧ step s = .next t ∧ t.error ≠ s.error) ∧
    (∃ s t : State, s.requests = [.assertReset] ∧ step s = .next t ∧ t.error ≠ s.error) :=
  ⟨⟨{ State.reset with error := some ⟨.access, 1⟩, requests := [.access (.write 0x10 8 0x100)] }, _, rfl, rfl, by decide⟩,
    ⟨{ State.reset with requests := [.access (.read 0xFF 8)] }, _, rfl, rfl, by decide⟩,
    ⟨{ busyMixing 1 with requests := [.access (.write 0xF8 8 1)] }, _, by decide, rfl, rfl, by decide⟩,
    ⟨{ State.reset with requests := [.access (.write 0x38 8 0x0702)] }, _, rfl, rfl, by decide⟩,
    ⟨{ absorbing .v1 17 0 with requests := [.access (.write 0x38 8 3)] }, _, rfl, rfl, by decide⟩,
    ⟨{ absorbing .v1 17 17 with requests := [.access (.write 0x38 8 4)] }, _, rfl, rfl, by decide⟩,
    { State.reset with error := some ⟨.access, 1⟩, requests := [.assertReset] }, _, rfl, rfl, by decide⟩

/-- START, FINISH, ABORT and reset each change the phase somewhere. -/
theorem witness_PhaseChangesFollowTheTable :
    (∃ s t : State, step s = .next t ∧ t.wrapper ≠ s.wrapper ∧ t.wrapper = .absorb .v6) ∧
    (∃ s t : State, step s = .next t ∧ t.wrapper ≠ s.wrapper ∧ t.wrapper = .done .v1) ∧
    (∃ s t : State, s.pending = some ⟨.abort, 0⟩ ∧ step s = .next t ∧ t.wrapper ≠ s.wrapper) ∧
    (∃ s t : State, s.pending = none ∧ step s = .next t ∧ t.wrapper ≠ s.wrapper) :=
  ⟨⟨{ finishedHash .v1 with pending := some ⟨.start .v6 true 0 1, 0⟩ }, _, rfl, by decide, rfl⟩,
    ⟨{ absorbing .v1 0 0 with pending := some ⟨.finish 0 .v1 1 1, 0⟩ }, _, rfl, by decide, rfl⟩,
    ⟨{ absorbing .v1 17 7 with pending := some ⟨.abort, 0⟩ }, _, rfl, rfl, by decide⟩,
    { absorbing .v1 17 7 with requests := [.assertReset] }, _, rfl, rfl, by decide⟩

/-- A FINISH whose completion changes the phase, in a state with the invariant. -/
theorem witness_PhaseChangesFollowTheTable_finish :
    ∃ s t : State, Inv s ∧ s.pending = some ⟨.finish 0 .v1 3 4, 0⟩ ∧ step s = .next t ∧ t.wrapper ≠ s.wrapper :=
  ⟨{ absorbing .v1 0 0 with pending := some ⟨.finish 0 .v1 3 4, 0⟩ }, _,
    ⟨by decide, .inl rfl, fun p h => by cases h; rfl, fun h => by cases h⟩, rfl, rfl, by decide⟩

theorem witness_BusyFollowsAcceptedCommands :
    (∃ s t : State, step s = .next t ∧ s.pending = none ∧ t.pending ≠ none) ∧
    (∃ s t : State, step s = .next t ∧ s.pending ≠ none ∧ t.pending = none) :=
  ⟨⟨{ State.reset with requests := [hostCmd .nop], latencies := [4] }, _, rfl, rfl, by simp [accept, respond]⟩,
    busyMixing 0, _, rfl, by decide, rfl⟩

/-- The invariant in reset and in a state with an operation in progress. -/
theorem witness_StepKeepsTheInvariant :
    (∃ s t : State, Inv s ∧ step s = .next t) ∧ ∃ s t : State, Inv s ∧ s.pending ≠ none ∧ step s = .next t :=
  ⟨⟨State.reset, _, ⟨by decide, .inl rfl, by decide, by decide⟩, rfl⟩,
    busyMixing 1, _,
    ⟨by decide, .inr (by decide), fun p h => by cases h; rfl, fun h => by cases h⟩, by decide, rfl⟩

/-- In each phase. -/
theorem witness_RegistersWhileNotBusy :
    (∃ s : State, Inv s ∧ s.pending = none ∧ s.wrapper.phaseCode = 0 ∧ s.error.isSome = false) ∧
    (∃ s : State, Inv s ∧ s.pending = none ∧ s.wrapper.phaseCode = 1) ∧
    (∃ s : State, Inv s ∧ s.pending = none ∧ s.wrapper.phaseCode = 2) :=
  ⟨⟨State.reset, ⟨by decide, .inl rfl, by decide, by decide⟩, rfl, rfl, rfl⟩,
    ⟨absorbing .v3 17 1, ⟨by decide, .inr (by decide), by decide, by decide⟩, rfl, rfl⟩,
    finishedHash .v6, ⟨by decide, .inl rfl, by decide, by decide⟩, rfl, rfl⟩

theorem witness_NothingFails : hostKeepsReset State.reset ∧
    hostKeepsReset { State.reset with inReset := true, requests := [.releaseReset] } ∧
    hostKeepsReset { State.reset with requests := [.poll] } := by
  refine ⟨?_, ?_, ?_⟩ <;> intro h <;> first | rfl | cases h

theorem witness_TransactionDuringResetStops :
    ∃ s : State, s.pending = none ∧ s.inReset = true ∧ nextIsTransaction s = true :=
  ⟨{ State.reset with inReset := true, requests := [.poll] }, rfl, rfl, rfl⟩

theorem witness_ResetAbandonsTheOperation :
    ∃ (s : State) (rest : List HostAction), s.requests = .assertReset :: rest ∧ s.pending ≠ none ∧
      (∀ p, s.pending = some p → p.left ≠ 0) ∧ rest = .releaseReset :: [] :=
  ⟨{ busyMixing 1 with requests := [.assertReset, .releaseReset] }, [.releaseReset], rfl, by decide, not_due_busyMixing 0 _, rfl⟩

theorem witness_CompletionIsGuaranteed :
    ∃ (n : Nat) (s : State) (op : Operation), s.pending = some ⟨op, n⟩ ∧ s.inReset = false ∧
      HostAction.assertReset ∉ s.requests.take n ∧ 0 < n ∧ s.requests ≠ [] :=
  ⟨2, { busyMixing 2 with requests := [.poll, hostRd .a, .assertReset] }, .mix 2 3 4, rfl, rfl, by decide, by decide, by decide⟩

theorem witness_PollEnds :
    ∃ (n : Nat) (s : State) (op : Operation) (rest : List HostAction), s.pending = some ⟨op, n⟩ ∧ s.inReset = false ∧
      s.requests = .poll :: rest :=
  ⟨0, { busyMixing 0 with requests := [.poll] }, .mix 2 3 4, [], rfl, rfl, rfl⟩

/-- Before the second chunk, of one byte, of a 17-byte message, and after its last chunk. -/
theorem witness_WrapperComputesTheHash :
    key17.length < 2 ^ 64 ∧
    (∃ (s : State) (op : Operation), Absorbing .v1 key17 (seedState false 0) 1 s ∧ 1 < chunkCount key17.length ∧
      (∀ t < (chunkOf key17 1).length,
        (if t < 8 then byteLane s.din0 t else byteLane s.din1 (t - 8)) = (chunkOf key17 1).getD t 0) ∧
      sampleBlock s = some op) ∧
    (∃ s : State, Absorbing .v1 key17 (seedState false 0) (chunkCount key17.length) s) :=
  ⟨by decide,
    ⟨{ State.reset with
        wrapper := .absorb .v1, lenl := 17, remain := 1, din0 := 0xFF67, din1 := 0xFF
        a := (hashAfter .v1 key17 (seedState false 0) 1).1, b := (hashAfter .v1 key17 (seedState false 0) 1).2 },
      _, ⟨rfl, by decide, by decide, rfl⟩, by decide, by decide, rfl⟩,
    { State.reset with
      wrapper := .absorb .v1, lenl := 17, remain := 0
      a := (hashAfter .v1 key17 (seedState false 0) 2).1, b := (hashAfter .v1 key17 (seedState false 0) 2).2 },
    ⟨rfl, by decide, by decide, rfl⟩⟩

/-- V43 and V44: "ABCDE", and with 11 zero bytes, whose chunk has the same words. -/
theorem witness_VariantOneSeesOnlyTheXorOfChunks :
    let xorOf (k : List Byte) : Word × Word :=
      (List.range (chunkCount k.length)).foldl
        (fun ab m => (ab.1 ^^^ le64 ((chunkOf k m).take 8), ab.2 ^^^ le64 ((chunkOf k m).drop 8))) (0, 0)
    xorOf [0x41, 0x42, 0x43, 0x44, 0x45] = xorOf [0x41, 0x42, 0x43, 0x44, 0x45, 0, 0, 0, 0, 0, 0, 0, 0, 0, 0, 0] := by
  decide

theorem witness_LengthFoldSeparatesPaddedMessages :
    Variant.v2 ∈ [Variant.v2, .v3, .v4, .v5] ∧ ([0x41, 0x42, 0x43, 0x44, 0x45] : List Byte) ≠ [] ∧ 0 < 11 ∧
      ([0x41, 0x42, 0x43, 0x44, 0x45] : List Byte).length + 11 ≤ 16 := by decide

theorem witness_BlockCommandsPerMessage :
    (17 : Word) ≠ 0 ∧ 0 + 1 < ((17 : Word).toNat + 15) / 16 := by decide

/-- V56: the dirty bytes from byte 5 on. -/
theorem witness_DirtyPaddingIsNotAbsorbed :
    ∀ t < min (5 : Word).toNat 16,
      (if t < 8 then byteLane 0xFFFFFF4544434241 t else byteLane 0xDEADBEEFDEADBEEF (t - 8)) =
        (if t < 8 then byteLane 0x0000004544434241 t else byteLane 0 (t - 8)) := by decide

theorem witness_DisabledSeedIsIgnored :
    ∃ (s : State) (op op' : Operation), s.useSeed = false ∧ sampleStart .v5 s = some op ∧
      sampleStart .v5 { s with seed := 0xFFFFFFFF } = some op' :=
  ⟨{ State.reset with useSeed := false }, _, _, rfl, rfl, rfl⟩

theorem witness_EmptyMessageAbsorbsNothing :
    ∃ u s : State, s = complete (.start .v1 true 0 0) u := ⟨State.reset, _, rfl⟩

theorem witness_ChunkWordsAreLittleEndian :
    ∃ (bs : List Byte) (j : Nat), bs.length ≤ 8 ∧ j < 8 := ⟨[0x41, 0x42, 0x43, 0x44, 0x45], 7, by decide⟩

theorem witness_DigestByteOrder : (7 : Nat) < 8 := by decide

theorem witness_WindowIsMappedAtBase : ∃ address : Nat, address < Config.base ∨ Config.base + 256 ≤ address :=
  ⟨Config.base + 256, .inr (Nat.le_refl _)⟩

theorem witness_AssemblerChecksItsRanges : (255 : Nat) ≤ 255 ∧ 255 < (256 : Nat) ∧ (1 : Nat) ≤ 1 ∧ (1 : Nat) ≤ 6 ∧
    ¬ (1 ≤ (0 : Nat) ∧ (0 : Nat) ≤ 6) ∧ ¬ (1 ≤ (7 : Nat) ∧ (7 : Nat) ≤ 6) := by decide

end Sys2Proof.Tests
end

section
/-! PROOFS. Rotate left, as a formula and bit by bit (00_scope.md R12). -/

namespace Sys2Proof.Machine

@[simp] theorem rotl64_zero (x : Word) : rotl64 x 0 = x := rfl

/-- The formula of R12, for a rotation that moves something. -/
theorem rotl64_of_pos (x : Word) {r : Nat} (h : 1 ≤ r) : rotl64 x r = (x <<< r) ||| (x >>> (64 - r)) :=
  if_neg (Nat.ne_of_gt h)

/-- In R12's range the model's rotation is the library's, so the library's lemmas speak of it. -/
theorem rotl64_eq_rotateLeft (x : Word) {r : Nat} (h : r ≤ 63) : rotl64 x r = x.rotateLeft r := by
  rw [BitVec.rotateLeft_def, Nat.mod_eq_of_lt (by omega)]
  obtain rfl | hpos := Nat.eq_zero_or_pos r
  · simp [BitVec.ushiftRight_eq_zero (x := x) (n := 64) (Nat.le_refl 64)]
  · exact rotl64_of_pos x hpos

/-- Bit `j` of the result is bit `(j - r) mod 64` of the operand; the `64` added keeps the subtraction exact. -/
theorem rotl64_getLsbD (x : Word) {r j : Nat} (hr : r ≤ 63) (hj : j < 64) :
    (rotl64 x r).getLsbD j = x.getLsbD ((j + 64 - r) % 64) := by
  rw [rotl64_eq_rotateLeft x hr, BitVec.getLsbD_rotateLeft_of_le (by omega)]
  obtain hlt | hge := Nat.lt_or_ge j r
  case inl =>
    have hwrap : (j + 64 - r) % 64 = 64 - r + j := by omega
    simp [hlt, hwrap]
  case inr =>
    have hshift : (j + 64 - r) % 64 = j - r := by omega
    simp [hj, Nat.not_lt.mpr hge, hshift]

/-- The rotation amount depends on the index modulo the table's 16 entries alone, and each entry is in 8..57. -/
theorem rotAmount_mem_range (i : Nat) : 8 ≤ rotAmount i ∧ rotAmount i ≤ 57 := by
  have hentries : ∀ k < Config.rotN, 8 ≤ Config.rotTable.getD k 0 ∧ Config.rotTable.getD k 0 ≤ 57 := by decide
  exact hentries (i % Config.rotN) (Nat.mod_lt i (by decide))

/-- Settles O6: the definition gives the formula, the library's rotation gives the bits, the table gives the range. -/
theorem rotateLeftMovesBits : Obligations.RotateLeftMovesBits :=
  ⟨rotl64_zero, fun x _ h _ => rotl64_of_pos x h, fun x _ _ hr hj => rotl64_getLsbD x hr hj, rotAmount_mem_range⟩

end Sys2Proof.Machine
end

section
/-! PROOFS. A write to `STATUS`, and every register's reset value (10_state.md R28, R45). -/

namespace Sys2Proof.Machine

/-- Out of reset and with no completion due, the step that serves a write is that write. -/
theorem step_of_write {s : State} {rest : List HostAction} {off size : BitVec 8} {v : Word} (hn : s.inReset = false)
    (hp : ∀ p, s.pending = some p → p.left ≠ 0) (hr : s.requests = .access (.write off size v) :: rest) :
    step s = memWrite off size v { serving s with requests := rest } :=
  (step_of_action hp hr).trans (hostActs_access (s := { serving s with requests := rest }) (.write off size v) hn)

/-- Settles O21: the port serves the write, and bit 8 of its data decides whether the record is cleared. -/
theorem statusWriteClearsTheRecord : Obligations.StatusWriteClearsTheRecord := by
  intro s rest v hn hp hr
  have hstep : step s =
      .next (if clearsError v then clearError (respond (.written false) { serving s with requests := rest })
        else respond (.written false) { serving s with requests := rest }) :=
    (step_of_write hn hp hr).trans (memWrite_status v _)
  rw [hstep, clearsError]
  cases v.getLsbD 8 <;> rfl

/-! The constant registers, in every state (R21, R36). -/

@[simp] theorem readReg_id (s : State) : readReg .id s = 0x0000000148585241 := rfl

@[simp] theorem readReg_rot0 (s : State) : readReg .rot0 s = 0x35180B200D15270C := romWord_zero

@[simp] theorem readReg_rot1 (s : State) : readReg .rot1 s = 0x083408320D391B11 := romWord_eight

/-- The rotation ROM holds `ROT_TABLE`, entry 0 first (R35). -/
theorem rotAmount_table : (List.range Config.rotN).map rotAmount = Config.rotTable := by decide

/-- Settles O39: each field as `State.reset` writes it, the constant registers as in every state, the ROM as its table. -/
theorem resetValues : Obligations.ResetValues :=
  ⟨-- `A`, `B`, `CTRL`, `BUSY`; `PHASE`, `VARIANT`; `ERR`, `ECAUSE`, `ERRINFO`
    rfl, rfl, rfl, rfl, rfl, rfl, rfl, rfl, rfl,
    -- `SEED`, `LEN`, `DIN0`, `DIN1`; `OUT0`, `OUT1`, `REMAIN`, `LENL`
    rfl, rfl, rfl, rfl, rfl, rfl, rfl, rfl,
    readReg_id _, readReg_rot0 _, readReg_rot1 _, rotAmount_table⟩

end Sys2Proof.Machine
end

section
/-! PROOFS. Malformed accesses (20_memory.md R55, 60_exceptions.md R156, R157). -/

namespace Sys2Proof.Machine

/-- Out of reset and with no completion due, the step that serves a read is that read. -/
theorem step_of_read {s : State} {rest : List HostAction} {off size : BitVec 8} (hn : s.inReset = false)
    (hp : ∀ p, s.pending = some p → p.left ≠ 0) (hr : s.requests = .access (.read off size) :: rest) :
    step s = .next (memRead off size { serving s with requests := rest }) :=
  (step_of_action hp hr).trans (hostActs_access (s := { serving s with requests := rest }) (.read off size) hn)

/-- A byte appended below a field stands below it as a digit in base 256. -/
theorem toNat_append_byte {n : Nat} (x : BitVec n) (y : Byte) : (x ++ y).toNat = 256 * x.toNat + y.toNat := by
  rw [BitVec.toNat_append, ← Nat.shiftLeft_add_eq_or_of_lt y.isLt, Nat.shiftLeft_eq, Nat.mul_comm]

/-- `ERRINFO` of an `ACCESS` error as a number: direction, size and offset side by side (R157). -/
theorem accessInfo_eq_ofNat (isWrite : Bool) (off size : BitVec 8) :
    accessInfo isWrite off size = BitVec.ofNat 64 (65536 * isWrite.toNat + 256 * size.toNat + off.toNat) := by
  have hfields : (accessInfo isWrite off size).toNat = 65536 * isWrite.toNat + 256 * size.toNat + off.toNat := by
    have hdirection : ((0 : BitVec 47) ++ BitVec.ofBool isWrite).toNat = isWrite.toNat := by
      cases isWrite <;> rfl
    rw [accessInfo, toNat_append_byte, toNat_append_byte, hdirection]
    omega
  rw [← hfields, BitVec.ofNat_toNat, BitVec.setWidth_eq]

/-- Settles O22: the port serves the access, whose malformed case writes the response and the error record alone. -/
theorem malformedAccessRaisesAccess : Obligations.MalformedAccessRaisesAccess := by
  intro s rest off size v hn hp hbad
  have hw := accessWellFormed_eq_false hbad
  constructor
  case left =>
    intro hr
    rw [step_of_read hn hp hr, memRead_malformed _ hw, raiseError_eq, accessInfo_eq_ofNat]
    simp [respond, serving]
  case right =>
    intro hr
    rw [step_of_write hn hp hr, memWrite_malformed v _ hw, raiseError_eq, accessInfo_eq_ofNat]
    simp [respond, serving]

end Sys2Proof.Machine
end

section
/-! PROOFS. The bytes of a digest (20_memory.md R52, R54). -/

namespace Sys2Proof

@[simp] theorem bytesLE_length (w : Word) : (bytesLE w).length = 8 := by simp [bytesLE]

theorem bytesLE_getD (w : Word) {t : Nat} (h : t < 8) : (bytesLE w).getD t 0 = byteLane w t := by
  simp [bytesLE, List.getD, h]

end Sys2Proof

namespace Sys2Proof.Machine

/-- With the byte order fixed, a digest is the lanes of `OUT0` and then those of `OUT1` (R54). -/
theorem digestBytes_eq (out : Word × Word) : digestBytes out = bytesLE out.1 ++ bytesLE out.2 := rfl

/-- Settles O51: bytes below 8 come from the first half, bytes from 8 on from the second; the example is evaluated. -/
theorem digestByteOrder : Obligations.DigestByteOrder := by
  refine ⟨fun out => ⟨?_, fun t ht => ⟨?_, ?_⟩⟩, by decide⟩
  · simp [digestBytes_eq]
  · rw [digestBytes_eq, List.getD_append _ _ _ _ (by simpa using ht), bytesLE_getD _ ht]
  · rw [digestBytes_eq, List.getD_append_right _ _ _ _ (by simp), bytesLE_length, Nat.add_sub_cancel_left,
      bytesLE_getD _ ht]

end Sys2Proof.Machine
end

section
/-! PROOFS. The encoding examples (30_encoding.md R83). -/

namespace Sys2Proof

/-- Each illegal example of R83 is rejected for the reason R83 gives: variant 7, `RSV != 0`, BLOCK with `ARG = 1`, a
reserved opcode. -/
theorem decode_illegalExamples :
    decode 0x0000000000000702 = .illegal .badArgument ∧ decode 0x0001000000000003 = .illegal .reservedBits ∧
      decode 0x0000000000000103 = .illegal .badArgument ∧ decode 0x0000000000000006 = .illegal .reservedOpcode := by decide

end Sys2Proof

namespace Sys2Proof.Machine

/-- Settles O1: the legal words are evaluated; each illegal word is given its reason by `decode_illegalExamples`. -/
theorem knownWordsDecode : Obligations.KnownWordsDecode := by
  refine ⟨by decide, by decide, by decide, ?illegal⟩
  case illegal =>
    obtain ⟨hvariant, hrsv, hblock, hopcode⟩ := decode_illegalExamples
    simp only [List.forall_mem_cons]
    exact ⟨⟨_, hvariant⟩, ⟨_, hrsv⟩, ⟨_, hblock⟩, ⟨_, hopcode⟩, List.forall_mem_nil _⟩

end Sys2Proof.Machine
end

section
/-! PROOFS. The rounds of the mixing primitive (40_arx_primitive.md R100, R101). -/

namespace Sys2Proof.Machine

@[simp] theorem mix_zero (a b : Word) : mix a b 0 = (a, b) := rfl

/-- `mixFrom` puts a further round in front, at a shifted index; for `mix` it comes last, with the next index. -/
theorem mix_succ (a b : Word) (n : Nat) : mix a b (n + 1) = arxRound (mix a b n) n := by
  simp [mix, mixFrom_add n 1, mixFrom_succ]

/-- Settles O7: a round is as its definition writes it, with the table's literals, and a further round comes last by `mix_succ`. -/
theorem mixRunsItsRoundsInOrder : Obligations.MixRunsItsRoundsInOrder :=
  ⟨fun _ _ _ => rfl, mix_zero, mix_succ⟩

end Sys2Proof.Machine
end

section
/-! PROOFS. Illegal command words, and a command word as `ARG` shifted above `OP` (30_encoding.md R71, R76, R79). -/

namespace Sys2Proof

theorem commandWord_eq_shift_or (op arg : BitVec 8) :
    commandWord op arg = (arg.setWidth 64 <<< 8) ||| op.setWidth 64 := by
  refine BitVec.eq_of_getLsbD_eq fun j hj => ?_
  rw [commandWord_getLsbD]
  split
  case isTrue hlow => simp [hj, hlow]
  case isFalse hhigh =>
    have hop : op.getLsbD j = false := op.getLsbD_of_ge j (by omega)
    simp [hj, hhigh, hop]

/-- `RSV` is checked before the opcode, so it rejects a word of any opcode (R75). -/
theorem decode_of_rsvField_ne_zero {w : Word} (h : rsvField w ≠ 0) : decode w = .illegal .reservedBits := if_pos h

theorem decode_of_opField_zero {w : Word} (hrsv : rsvField w = 0) (hop : opField w = 0) :
    decode w = decodeNoArg .nop (argField w) := by
  simp [decode, hrsv, hop]

theorem decodeNoArg_of_ne_zero {arg : BitVec 8} (i : Instr) (h : arg ≠ 0) : decodeNoArg i arg = .illegal .badArgument :=
  if_neg h

end Sys2Proof
end

section
/-! PROOFS. NOP and MIX from their issue to their completion (40_arx_primitive.md R104, R105). -/

namespace Sys2Proof.Machine

/-- A command whose sequence check passes is accepted while not busy (30_encoding.md R79). -/
theorem exec_of_idle {i : Instr} {s : State} {op : Operation} (hp : s.pending = none) (ho : sampleOf i s = some op) :
    exec i s = .next (accept op s) := by
  rw [exec_eq_issue, ho, issue_of_some i op hp]

/-- Every command raises `BUSY_CMD` while busy, whatever its sequence check says (60_exceptions.md R154, R158). -/
theorem exec_of_busy (i : Instr) {s : State} {p : Pending} (hp : s.pending = some p) :
    exec i s = .next { s with error := if s.error.isNone then some ⟨.busyCmd, encode i⟩ else s.error } := by
  rw [exec_eq_issue, issue_of_busy i _ hp, raiseError_eq]

theorem complete_nop (u : State) : complete .nop u = { u with pending := none } := rfl

theorem complete_mix (n : BitVec 8) (a b : Word) (u : State) :
    complete (.mix n a b) u = { u with a := (mix a b n.toNat).1, b := (mix a b n.toNat).2, pending := none } := rfl

/-- Settles O13: NOP samples nothing, so it is accepted in every phase, and its completion writes `BUSY` alone. -/
theorem nopRunsToCompletion : Obligations.NopRunsToCompletion := by
  refine ⟨by decide, fun s hidle => ⟨.nop, exec_of_idle hidle rfl, fun u hdue => ?completes⟩,
    fun s p hbusy => exec_of_busy .nop hbusy, fun w hop hbad => ?illegal⟩
  case completes => rw [step_of_due hdue, complete_nop]
  case illegal =>
    by_cases hrsv : rsvField w = 0
    · have harg : argField w ≠ 0 := hbad.resolve_right (not_not_intro hrsv)
      exact ⟨_, (decode_of_opField_zero hrsv hop).trans (decodeNoArg_of_ne_zero .nop harg)⟩
    · exact ⟨_, decode_of_rsvField_ne_zero hrsv⟩

/-- Settles O14: MIX samples `A` and `B` of the state `s` that issues it, and its completion in any later state `u` mixes those. -/
theorem mixRunsToCompletion : Obligations.MixRunsToCompletion := by
  refine ⟨fun n => commandWord_eq_shift_or 0x01 n,
    fun n s hidle => ⟨.mix n s.a s.b, exec_of_idle hidle rfl, fun u hdue => ?completes⟩,
    fun n s p hbusy => exec_of_busy (.mix n) hbusy, fun w _ hrsv => ⟨_, decode_of_rsvField_ne_zero hrsv⟩, by decide⟩
  case completes => rw [step_of_due hdue, complete_mix]

end Sys2Proof.Machine
end

section
/-! PROOFS. START, BLOCK, FINISH and ABORT from their issue to their completion (41_hash_wrapper.md R127 to R135). -/

namespace Sys2Proof

theorem decode_of_opField_two {w : Word} (hrsv : rsvField w = 0) (hop : opField w = 2) :
    decode w = decodeStart (argField w) := by
  simp [decode, hrsv, hop]

theorem decode_of_opField_three {w : Word} (hrsv : rsvField w = 0) (hop : opField w = 3) :
    decode w = decodeNoArg .block (argField w) := by
  simp [decode, hrsv, hop]

theorem decode_of_opField_four {w : Word} (hrsv : rsvField w = 0) (hop : opField w = 4) :
    decode w = decodeNoArg .finish (argField w) := by
  simp [decode, hrsv, hop]

theorem decode_of_opField_five {w : Word} (hrsv : rsvField w = 0) (hop : opField w = 5) :
    decode w = decodeNoArg .abort (argField w) := by
  simp [decode, hrsv, hop]

/-- A word whose opcode takes no argument is illegal when `ARG` or `RSV` is not 0 (R75, R76). -/
theorem illegal_of_decodeNoArg {w : Word} {i : Instr} (hd : rsvField w = 0 → decode w = decodeNoArg i (argField w))
    (hbad : argField w ≠ 0 ∨ rsvField w ≠ 0) : ∃ why, decode w = .illegal why := by
  by_cases hrsv : rsvField w = 0
  · have harg : argField w ≠ 0 := hbad.resolve_right (not_not_intro hrsv)
    exact ⟨_, (hd hrsv).trans (decodeNoArg_of_ne_zero i harg)⟩
  · exact ⟨_, decode_of_rsvField_ne_zero hrsv⟩

/-- START has no variant but 1 to 6 (R76). -/
theorem decodeStart_of_out_of_range {arg : BitVec 8} (h : ¬ (1 ≤ arg.toNat ∧ arg.toNat ≤ 6)) :
    decodeStart arg = .illegal .badArgument := by
  unfold decodeStart
  split
  case h_7 => rfl
  all_goals omega

/-- A START word is `ARG`, the variant number, above `OP` (R71, R73). -/
theorem encode_startCommand (v : Variant) :
    encode v.startCommand = ((Machine.variantNumber v).setWidth 64 <<< 8) ||| 0x02 := by
  cases v <;> exact commandWord_eq_shift_or 0x02 _

end Sys2Proof

namespace Sys2Proof.Machine

/-- A command whose sequence check fails raises `SEQUENCE` while not busy (60_exceptions.md R153). -/
theorem exec_of_out_of_sequence {i : Instr} {s : State} (hp : s.pending = none) (ho : sampleOf i s = none) :
    exec i s = .next { s with error := if s.error.isNone then some ⟨.sequence, encode i⟩ else s.error } := by
  rw [exec_eq_issue, ho, issue_of_none i hp, raiseError_eq]

theorem phaseCode_eq_one_iff {w : Wrapper} : w.phaseCode = 1 ↔ ∃ v, w = .absorb v := by
  cases w <;> simp [Wrapper.phaseCode]

/-! The operands each command samples (10_state.md R43). -/

theorem sampleOf_startCommand (v : Variant) (s : State) :
    sampleOf v.startCommand s = some (.start v s.useSeed s.seed s.len) := by cases v <;> rfl

theorem sampleOf_block {v : Variant} {s : State} (hw : s.wrapper = .absorb v) (hr : s.remain ≠ 0) :
    sampleOf .block s = some (.block s.din0 s.din1 s.remain v s.a s.b) := by
  simp only [sampleOf, sampleBlock, hw, if_neg hr]

theorem sampleOf_finish {v : Variant} {s : State} (hw : s.wrapper = .absorb v) (hr : s.remain = 0) :
    sampleOf .finish s = some (.finish s.lenl v s.a s.b) := by
  simp only [sampleOf, sampleFinish, hw, if_pos hr]

theorem sampleOf_block_eq_none {s : State} (h : (∀ v, s.wrapper ≠ .absorb v) ∨ s.remain = 0) :
    sampleOf .block s = none := by
  refine sampleOf_eq_none.2 (.inl ⟨rfl, fun ⟨hphase, hr⟩ => ?_⟩)
  obtain ⟨v, hw⟩ := phaseCode_eq_one_iff.1 hphase
  exact h.elim (fun hne => hne v hw) hr

theorem sampleOf_finish_eq_none {s : State} (h : (∀ v, s.wrapper ≠ .absorb v) ∨ s.remain ≠ 0) :
    sampleOf .finish s = none := by
  refine sampleOf_eq_none.2 (.inr ⟨rfl, fun ⟨hphase, hr⟩ => ?_⟩)
  obtain ⟨v, hw⟩ := phaseCode_eq_one_iff.1 hphase
  exact h.elim (fun hne => hne v hw) (fun hne => hne hr)

/-! What each completion writes. -/

theorem seedState_eq (useSeed : Bool) (seed : BitVec 32) :
    seedState useSeed seed = if useSeed then mix (seed.setWidth 64) 0 12 else (0, 0) := rfl

theorem foldLength_eq (v : Variant) (lenl a : Word) :
    foldLength v lenl a = if v = .v1 then a else a ^^^ lenl := by cases v <;> rfl

theorem collapsePair_eq (v : Variant) (ab : Word × Word) :
    collapsePair v ab = if v = .v6 then mix ab.1 0 12 else ab := by cases v <;> rfl

/-- The fold, the final mix and the collapse, with the variants written out (R131 to R133). -/
theorem finalizePair_eq (v : Variant) (lenl a b : Word) :
    finalizePair v lenl a b =
      let mixed := mix (if v = .v1 then a else a ^^^ lenl) b 12
      if v = .v6 then mix mixed.1 0 12 else mixed := by
  rw [finalizePair, collapsePair_eq, foldLength_eq]
  rfl

theorem complete_start (v : Variant) (useSeed : Bool) (seed : BitVec 32) (len : Word) (u : State) :
    complete (.start v useSeed seed len) u = { u with
      wrapper := .absorb v
      lenl := len
      remain := len
      a := (seedState useSeed seed).1
      b := (seedState useSeed seed).2
      pending := none } := rfl

theorem complete_block (din0 din1 remain : Word) (v : Variant) (a b : Word) (u : State) :
    complete (.block din0 din1 remain v a b) u =
      let k := chunkSize remain
      let ab := mix (a ^^^ (din0 &&& (chunkMask k).1)) (b ^^^ (din1 &&& (chunkMask k).2)) (Config.blockRounds v)
      { u with a := ab.1, b := ab.2, remain := remain - BitVec.ofNat 64 k, pending := none } := rfl

theorem complete_finish (lenl : Word) (v : Variant) (a b : Word) (u : State) :
    complete (.finish lenl v a b) u =
      let out := finalizePair v lenl a b
      { u with a := out.1, b := out.2, out0 := out.1, out1 := out.2, wrapper := .done v, pending := none } := rfl

theorem complete_abort (u : State) :
    complete .abort u = { u with wrapper := .idle, remain := 0, lenl := 0, pending := none } := rfl

/-- Seed 0 with seeding enabled: the example of R127. -/
theorem mix_zero_seed : mix 0 0 12 = (0x86F49923AC18560A, 0x81E192F3F0CD45C1) := by decide

/-- Settles O18: ABORT samples nothing, so it is accepted in every phase, and its completion clears its four fields. -/
theorem abortRunsToCompletion : Obligations.AbortRunsToCompletion := by
  refine ⟨by decide, fun s hidle => ⟨.abort, exec_of_idle hidle rfl, fun u hdue => ?completes⟩,
    fun s p hbusy => exec_of_busy .abort hbusy,
    fun w hop hbad => illegal_of_decodeNoArg (decode_of_opField_five · hop) hbad⟩
  case completes => rw [step_of_due hdue, complete_abort]

/-- Settles O15: START of a variant samples the switch, the seed and the length of the state `s` that issues it, and its
completion in any later state `u` latches and injects those. -/
theorem startRunsToCompletion : Obligations.StartRunsToCompletion := by
  refine ⟨encode_startCommand,
    fun v s hidle => ⟨_, exec_of_idle hidle (sampleOf_startCommand v s), fun u hdue => ?completes⟩,
    fun v s p hbusy => exec_of_busy v.startCommand hbusy, fun w hop hbad => ?illegal, mix_zero_seed, ?seeded⟩
  case completes =>
    rw [step_of_due hdue, complete_start, seedState_eq]
    cases s.useSeed <;> rfl
  case illegal =>
    by_cases hrsv : rsvField w = 0
    · have harg := hbad.resolve_right (not_not_intro hrsv)
      exact ⟨_, (decode_of_opField_two hrsv hop).trans (decodeStart_of_out_of_range harg)⟩
    · exact ⟨_, decode_of_rsvField_ne_zero hrsv⟩
  case seeded => rw [mix_zero_seed]; decide

/-- Settles O16: the sequence check splits the idle states in two. Where it passes, BLOCK samples the chunk, `REMAIN`, the
variant and the accumulator of the state `s` that issues it, and its completion in any later state `u` absorbs those. -/
theorem blockRunsToCompletion : Obligations.BlockRunsToCompletion := by
  refine ⟨by decide, fun v s hidle hw hr => ⟨_, exec_of_idle hidle (sampleOf_block hw hr), fun u hdue => ?completes⟩,
    fun s hidle hseq => exec_of_out_of_sequence hidle (sampleOf_block_eq_none hseq),
    fun s p hbusy => exec_of_busy .block hbusy,
    fun w hop hbad => illegal_of_decodeNoArg (decode_of_opField_three · hop) hbad, ?abcde⟩
  case completes => rw [step_of_due hdue, complete_block]; rfl
  case abcde => rw [mix_zero_seed]; decide

/-- Settles O17: the sequence check splits the idle states in two. Where it passes, FINISH samples the length, the variant and
the accumulator of the state `s` that issues it, and its completion in any later state `u` writes their `finalizePair`. -/
theorem finishRunsToCompletion : Obligations.FinishRunsToCompletion := by
  refine ⟨by decide, fun v s hidle hw hr => ⟨_, exec_of_idle hidle (sampleOf_finish hw hr), fun u hdue => ?completes⟩,
    fun s hidle hseq => exec_of_out_of_sequence hidle (sampleOf_finish_eq_none hseq),
    fun s p hbusy => exec_of_busy .finish hbusy,
    fun w hop hbad => illegal_of_decodeNoArg (decode_of_opField_four · hop) hbad, by decide, by decide⟩
  case completes => rw [step_of_due hdue, complete_finish, finalizePair_eq]

end Sys2Proof.Machine
end

section
/-! PROOFS. Words lane by lane, and the chunk mask (20_memory.md R52, 41_hash_wrapper.md R130). -/

namespace Sys2Proof

theorem byteLane_getLsbD (w : Word) (t : Nat) {i : Nat} (h : i < 8) : (byteLane w t).getLsbD i = w.getLsbD (8 * t + i) := by
  simp [byteLane, h]

theorem byteLane_and (x y : Word) (t : Nat) : byteLane (x &&& y) t = byteLane x t &&& byteLane y t :=
  BitVec.extractLsb'_and

/-- A word is its eight lanes: bit `j` is bit `j % 8` of lane `j / 8`. -/
theorem eq_of_byteLane_eq {x y : Word} (h : ∀ t < 8, byteLane x t = byteLane y t) : x = y := by
  refine BitVec.eq_of_getLsbD_eq fun j hj => ?_
  have hlane := congrArg (·.getLsbD (j % 8)) (h (j / 8) (by omega))
  simpa only [byteLane_getLsbD _ _ (Nat.mod_lt j (by decide : 8 > 0)), Nat.div_add_mod] using hlane

/-- `LE64` puts byte `t` in lane `t`, and missing bytes are 0 (R52). -/
theorem byteLane_le64 (bs : List Byte) {t : Nat} (ht : t < 8) : byteLane (le64 bs) t = bs.getD t 0 := by
  induction bs generalizing t with
  | nil => simp [le64, byteLane]
  | cons b rest ih =>
    cases t with
    | zero =>
      refine BitVec.eq_of_getLsbD_eq fun i hi => ?_
      have hi64 : i < 64 := by omega
      rw [byteLane_getLsbD _ _ hi, le64]
      simp [hi, hi64]
    | succ t =>
      have hrest : byteLane (le64 (b :: rest)) (t + 1) = byteLane (le64 rest) t := by
        refine BitVec.eq_of_getLsbD_eq fun i hi => ?_
        have hb : b.getLsbD (8 * (t + 1) + i) = false := b.getLsbD_of_ge _ (by omega)
        have hlow : ¬ 8 * (t + 1) + i < 8 := by omega
        have hbit : 8 * (t + 1) + i < 64 := by omega
        have hshift : 8 * (t + 1) + i - 8 = 8 * t + i := by omega
        rw [byteLane_getLsbD _ _ hi, byteLane_getLsbD _ _ hi, le64, BitVec.getLsbD_or, BitVec.getLsbD_shiftLeft]
        simp [hb, hlow, hbit, hshift]
      rw [hrest, ih (by omega), List.getD_cons_succ]

/-- Under a mask that keeps the lanes below `n`, the word of some bytes is the word of the first `n` of them. -/
theorem le64_and_mask (bs : List Byte) {mask : Word} {n : Nat}
    (hmask : ∀ t < 8, byteLane mask t = if t < n then 0xFF else 0x00) : le64 bs &&& mask = le64 (bs.take n) := by
  refine eq_of_byteLane_eq fun t ht => ?_
  rw [byteLane_and, byteLane_le64 bs ht, byteLane_le64 _ ht, hmask t ht, List.getD_eq_getElem?_getD,
    List.getD_eq_getElem?_getD, List.getElem?_take]
  split
  case isTrue => exact BitVec.and_allOnes
  case isFalse => exact BitVec.and_zero

end Sys2Proof

namespace Sys2Proof.Machine

/-- Ones in the lowest `8 * n` bits are ones in the lanes below `n`. -/
theorem byteLane_lowOnes : ∀ n < 8, ∀ t < 8, byteLane ((1#64 <<< (8 * n)) - 1) t = if t < n then 0xFF else 0x00 := by
  decide

theorem byteLane_allOnes : ∀ t < 8, byteLane 0xFFFFFFFFFFFFFFFF t = 0xFF := by decide

theorem byteLane_zero : ∀ t < 8, byteLane 0 t = 0x00 := by decide

/-- The first mask word keeps the lanes below `k` (R130). -/
theorem byteLane_chunkMask_fst (k : Nat) {t : Nat} (ht : t < 8) :
    byteLane (chunkMask k).1 t = if t < k then 0xFF else 0x00 := by
  unfold chunkMask
  dsimp only
  split
  case isTrue hk => rw [byteLane_allOnes t ht, if_pos (by omega)]
  case isFalse hk => exact byteLane_lowOnes k (by omega) t ht

/-- The second mask word keeps the lanes below `k - 8` (R130). -/
theorem byteLane_chunkMask_snd (k : Nat) {t : Nat} (ht : t < 8) :
    byteLane (chunkMask k).2 t = if t < k - 8 then 0xFF else 0x00 := by
  unfold chunkMask
  dsimp only
  split
  case isTrue hfull => rw [byteLane_allOnes t ht, if_pos (by omega)]
  case isFalse hnotfull =>
    split
    case isTrue hlow => rw [byteLane_zero t ht, if_neg (by omega)]
    case isFalse => exact byteLane_lowOnes (k - 8) (by omega) t ht

/-- Settles O11: each mask word keeps the lanes below a bound, and masking the bytes of a chunk's half word keeps as many. -/
theorem chunkMaskKeepsTheFirstBytes : Obligations.ChunkMaskKeepsTheFirstBytes := by
  refine ⟨fun k t _ _ ht => ⟨byteLane_chunkMask_fst k ht, ?lane⟩, fun k c _ _ _ => ⟨?first, ?second⟩, by decide, by decide⟩
  case lane => simp only [byteLane_chunkMask_snd k ht, Nat.lt_sub_iff_add_lt']
  case first =>
    rw [le64_and_mask _ fun t => byteLane_chunkMask_fst k, List.take_take, List.take_take, Nat.min_comm]
  case second =>
    rw [le64_and_mask _ fun t => byteLane_chunkMask_snd k, List.drop_take]

end Sys2Proof.Machine
end

section
/-! PROOFS. How many BLOCK commands a message takes, and the empty message (41_hash_wrapper.md R138, R139). -/

namespace Sys2Proof.Machine

/-- `REMAIN` after the BLOCK that finds it at `remain` (R129). -/
def remainAfterBlock (remain : Word) : Word := remain - BitVec.ofNat 64 (chunkSize remain)

theorem complete_block_remain (d e r : Word) (v : Variant) (a b : Word) (s : State) :
    (complete (.block d e r v a b) s).remain = remainAfterBlock r := rfl

theorem chunkSize_eq (remain : Word) : chunkSize remain = min remain.toNat 16 := rfl

/-- A BLOCK takes 16 bytes, or all that remain. -/
theorem toNat_remainAfterBlock (remain : Word) : (remainAfterBlock remain).toNat = remain.toNat - 16 := by
  have hle : BitVec.ofNat 64 (chunkSize remain) ≤ remain := by
    rw [chunkSize_eq]
    bv_omega
  rw [remainAfterBlock, BitVec.toNat_sub_of_le hle, BitVec.toNat_ofNat, chunkSize_eq]
  omega

/-- `m` BLOCKs take 16 bytes each, until none remain. -/
theorem toNat_iterate_remainAfterBlock (len : Word) (m : Nat) :
    (remainAfterBlock^[m] len).toNat = len.toNat - 16 * m := by
  induction m with
  | zero => rfl
  | succ m ih =>
    rw [Function.iterate_succ_apply', toNat_remainAfterBlock, ih]
    omega

/-- The chunk that the BLOCK after `m` others takes. -/
theorem chunkSize_iterate_remainAfterBlock (len : Word) (m : Nat) :
    chunkSize (remainAfterBlock^[m] len) = min (len.toNat - 16 * m) 16 := by
  rw [chunkSize_eq, toNat_iterate_remainAfterBlock]

/-- Settles O47: `toNat_iterate_remainAfterBlock` counts the bytes that remain, and the rest is arithmetic on that count. -/
theorem blockCommandsPerMessage : Obligations.BlockCommandsPerMessage := by
  refine ⟨complete_block_remain, fun len hlen => ?_⟩
  have hpos : 0 < len.toNat := by bv_omega
  intro after count
  have hremain (m : Nat) : (after m).toNat = len.toNat - 16 * m := toNat_iterate_remainAfterBlock len m
  have hchunk (m : Nat) : chunkSize (after m) = min (len.toNat - 16 * m) 16 := chunkSize_iterate_remainAfterBlock len m
  refine ⟨fun m => ?count, fun m hm => ?whole, ?last, ?nonempty, ?bounded⟩
  case count =>
    rw [← BitVec.toNat_inj, hremain, show (0 : Word).toNat = 0 from rfl]
    omega
  all_goals
    rw [hchunk]
    omega

/-- A message of no bytes has no chunk, so its hash finalizes the seeded state, and the length folded in is 0. -/
theorem hashOf_nil (v : Variant) (seed : BitVec 32) (useSeed : Bool) :
    hashOf v [] seed useSeed =
      let ab := mix (seedState useSeed seed).1 (seedState useSeed seed).2 12
      if v = .v6 then mix ab.1 0 12 else ab := by
  have hfold (a : Word) : (if v = .v1 then a else a ^^^ 0) = a :=
    (congrArg (ite (v = .v1) a) BitVec.xor_zero).trans (ite_self a)
  have hfinal : hashOf v [] seed useSeed = finalizePair v 0 (seedState useSeed seed).1 (seedState useSeed seed).2 := rfl
  rw [hfinal, finalizePair_eq, hfold]

/-- The final mix of the empty message for seed 0. -/
theorem mix_mix_zero_seed : mix (mix 0 0 12).1 (mix 0 0 12).2 12 = (0x3138CDF719C55CFC, 0xA0FFB3658861FEA5) := by
  rw [mix_zero_seed]
  decide

/-- Settles O50: `hashOf_nil` gives the hash, whose digest for seed 0 is evaluated; START with `LEN = 0` leaves nothing for
BLOCK's sequence check to pass on. -/
theorem emptyMessageAbsorbsNothing : Obligations.EmptyMessageAbsorbsNothing := by
  refine ⟨hashOf_nil, by decide, fun v hv => ?digest, ?started⟩
  case digest =>
    have hv6 : v ≠ .v6 := by rintro rfl; exact absurd hv (by decide)
    have hseed : seedState true 0 = mix 0 0 12 := rfl
    simp only [hashOf_nil, if_neg hv6, hseed, mix_mix_zero_seed]
    decide
  case started =>
    rintro v useSeed seed u s rfl
    rw [complete_start]
    exact ⟨rfl, rfl, exec_of_out_of_sequence rfl (sampleOf_block_eq_none (.inr rfl))⟩

end Sys2Proof.Machine
end

section
/-! PROOFS. Which words are illegal, and that a legal word is the one word of its command (30_encoding.md R73 to R79,
60_exceptions.md R152). -/

namespace Sys2Proof

theorem decodeNoArg_illegal_iff (i : Instr) (arg : BitVec 8) : (∃ why, decodeNoArg i arg = .illegal why) ↔ arg ≠ 0 := by
  refine ⟨?_, fun h => ⟨_, decodeNoArg_of_ne_zero i h⟩⟩
  rintro ⟨why, hillegal⟩ rfl
  cases hillegal

theorem decodeNoArg_eq_command {i j : Instr} {arg : BitVec 8} (h : decodeNoArg i arg = .command j) : arg = 0 ∧ i = j := by
  by_cases harg : arg = 0
  case pos => exact ⟨harg, Decoded.command.inj ((if_pos harg).symm.trans h)⟩
  case neg => cases (decodeNoArg_of_ne_zero i harg).symm.trans h

/-- `ARG` numbers a variant, and then it stands in the word of the command that START names; or START is illegal (R72, R76). -/
theorem decodeStart_cases (arg : BitVec 8) :
    (∃ i, (1 ≤ arg.toNat ∧ arg.toNat ≤ 6) ∧ encode i = commandWord 2 arg ∧ decodeStart arg = .command i) ∨
    (¬ (1 ≤ arg.toNat ∧ arg.toNat ≤ 6) ∧ decodeStart arg = .illegal .badArgument) := by
  by_cases hrange : 1 ≤ arg.toNat ∧ arg.toNat ≤ 6
  case neg => exact .inr ⟨hrange, decodeStart_of_out_of_range hrange⟩
  have hnumber : arg = 1 ∨ arg = 2 ∨ arg = 3 ∨ arg = 4 ∨ arg = 5 ∨ arg = 6 := by bv_omega
  rcases hnumber with rfl | rfl | rfl | rfl | rfl | rfl <;> exact .inl ⟨_, hrange, rfl, rfl⟩

theorem decodeStart_illegal_iff (arg : BitVec 8) :
    (∃ why, decodeStart arg = .illegal why) ↔ ¬ (1 ≤ arg.toNat ∧ arg.toNat ≤ 6) := by
  rcases decodeStart_cases arg with ⟨i, hrange, _, hd⟩ | ⟨hrange, hd⟩ <;> simp [hd, hrange]

theorem encode_of_decodeStart {arg : BitVec 8} {i : Instr} (h : decodeStart arg = .command i) :
    encode i = commandWord 2 arg := by
  rcases decodeStart_cases arg with ⟨j, _, hword, hd⟩ | ⟨_, hd⟩
  · cases hd.symm.trans h
    exact hword
  · cases hd.symm.trans h

theorem decode_of_opField_one {w : Word} (hrsv : rsvField w = 0) (hop : opField w = 1) :
    decode w = .command (.mix (argField w)) := by
  simp [decode, hrsv, hop]

theorem decode_of_six_le_opField {w : Word} (hrsv : rsvField w = 0) (hop : 6 ≤ (opField w).toNat) :
    decode w = .illegal .reservedOpcode := by
  rw [decode, if_neg (not_not_intro hrsv)]
  split
  case h_7 => rfl
  all_goals omega

/-- All that the decoder can do once `RSV = 0`: an opcode without an argument, MIX, START, a reserved opcode (R72, R74). -/
theorem decode_cases {w : Word} (hrsv : rsvField w = 0) :
    (∃ i, opField w ∈ [(0x00 : BitVec 8), 0x03, 0x04, 0x05] ∧ encode i = commandWord (opField w) 0 ∧
      decode w = decodeNoArg i (argField w)) ∨
    (opField w = 1 ∧ decode w = .command (.mix (argField w))) ∨
    (opField w = 2 ∧ decode w = decodeStart (argField w)) ∨
    (6 ≤ (opField w).toNat ∧ decode w = .illegal .reservedOpcode) := by
  have hops : opField w = 0 ∨ opField w = 1 ∨ opField w = 2 ∨ opField w = 3 ∨ opField w = 4 ∨ opField w = 5 ∨
      6 ≤ (opField w).toNat := by bv_omega
  rcases hops with hop | hop | hop | hop | hop | hop | hop
  · exact .inl ⟨.nop, by simp [hop], by rw [hop]; rfl, decode_of_opField_zero hrsv hop⟩
  · exact .inr (.inl ⟨hop, decode_of_opField_one hrsv hop⟩)
  · exact .inr (.inr (.inl ⟨hop, decode_of_opField_two hrsv hop⟩))
  · exact .inl ⟨.block, by simp [hop], by rw [hop]; rfl, decode_of_opField_three hrsv hop⟩
  · exact .inl ⟨.finish, by simp [hop], by rw [hop]; rfl, decode_of_opField_four hrsv hop⟩
  · exact .inl ⟨.abort, by simp [hop], by rw [hop]; rfl, decode_of_opField_five hrsv hop⟩
  · exact .inr (.inr (.inr ⟨hop, decode_of_six_le_opField hrsv hop⟩))

/-- The four sets of illegal words (R152). -/
theorem decode_illegal_iff (w : Word) : (∃ why, decode w = .illegal why) ↔
    rsvField w ≠ 0 ∨ 6 ≤ (opField w).toNat ∨
      (opField w = 0x02 ∧ ¬ (1 ≤ (argField w).toNat ∧ (argField w).toNat ≤ 6)) ∨
      (opField w ∈ [(0x00 : BitVec 8), 0x03, 0x04, 0x05] ∧ argField w ≠ 0) := by
  by_cases hrsv : rsvField w = 0
  case neg => exact iff_of_true ⟨_, decode_of_rsvField_ne_zero hrsv⟩ (.inl hrsv)
  rcases decode_cases hrsv with ⟨i, hop, _, hd⟩ | ⟨hop, hd⟩ | ⟨hop, hd⟩ | ⟨hop, hd⟩
  · rw [hd, decodeNoArg_illegal_iff]
    have hothers : ∀ op ∈ [(0x00 : BitVec 8), 0x03, 0x04, 0x05], ¬ 6 ≤ op.toNat ∧ op ≠ 0x02 := by decide
    obtain ⟨hreserved, hstart⟩ := hothers _ hop
    simp only [hrsv, hreserved, hstart, hop, ne_eq, not_true_eq_false, false_and, true_and, false_or]
  · simp [hd, hrsv, hop]
  · rw [hd, decodeStart_illegal_iff]
    simp [hrsv, hop]
  · exact iff_of_true ⟨_, hd⟩ (.inr (.inl hop))

/-- A word with `RSV = 0` is its `ARG` above its `OP` (R71). -/
theorem commandWord_of_rsvField_eq_zero {w : Word} (hrsv : rsvField w = 0) :
    commandWord (opField w) (argField w) = w := by
  refine BitVec.eq_of_getLsbD_eq fun j hj => ?_
  rw [commandWord_getLsbD]
  split
  case isTrue hlow => simp [opField, hlow]
  case isFalse hhigh =>
    by_cases harg : j < 16
    case pos => simp [argField, show j - 8 < 8 by omega, show 8 + (j - 8) = j by omega]
    case neg =>
      have hbit : (rsvField w).getLsbD (j - 16) = w.getLsbD j := by
        simp [rsvField, show j - 16 < 48 by omega, show 16 + (j - 16) = j by omega]
      rw [BitVec.getLsbD_of_ge _ _ (by omega), ← hbit, hrsv]
      exact BitVec.getLsbD_zero.symm

/-- A legal word is the word of the command it decodes to (R73, R79). -/
theorem encode_of_decode {w : Word} {i : Instr} (h : decode w = .command i) : encode i = w := by
  by_cases hrsv : rsvField w = 0
  case neg => cases (decode_of_rsvField_ne_zero hrsv).symm.trans h
  refine Eq.trans ?_ (commandWord_of_rsvField_eq_zero hrsv)
  rcases decode_cases hrsv with ⟨j, _, hword, hd⟩ | ⟨hop, hd⟩ | ⟨hop, hd⟩ | ⟨_, hd⟩
  · obtain ⟨harg, rfl⟩ := decodeNoArg_eq_command (hd.symm.trans h)
    rw [harg, hword]
  · cases hd.symm.trans h
    rw [hop]
    rfl
  · rw [hop, encode_of_decodeStart (hd.symm.trans h)]
  · cases hd.symm.trans h

end Sys2Proof
end

section
/-! PROOFS. The errors of a write: an illegal word, and any write while busy (60_exceptions.md R152, R154). -/

namespace Sys2Proof.Machine

theorem writeCommand_of_illegal {w : Word} {why : IllegalWord} {s : State} (hd : decode w = .illegal why)
    (hidle : s.pending = none) : writeCommand w s = .next (raiseError .illegalCmd w s) := by
  simp [writeCommand, hd, hidle]

/-- While busy a legal word and an illegal one raise the same error, with the word itself (R154, R158). -/
theorem writeCommand_of_busy {s : State} {p : Pending} (w : Word) (hbusy : s.pending = some p) :
    writeCommand w s = .next (raiseError .busyCmd w s) := by
  unfold writeCommand
  split
  case h_1 i hd => rw [exec_eq_issue, issue_of_busy i _ hbusy, encode_of_decode hd]
  case h_2 => rw [if_pos (busy_of_some hbusy)]

/-- Settles O4: the decoder's cases give the four sets; the port serves the write of an illegal word, which records the error
alone. -/
theorem illegalWordsRaiseIllegalCmd : Obligations.IllegalWordsRaiseIllegalCmd := by
  refine ⟨decode_illegal_iff, fun s rest w hidle hn hr ⟨why, hd⟩ => ?write⟩
  case write =>
    have hdue : ∀ p, s.pending = some p → p.left ≠ 0 := by simp [hidle]
    calc step s
      _ = memWrite 0x38 8 w { serving s with requests := rest } := step_of_write hn hdue hr
      _ = writeCommand w (respond (.written false) { s with requests := rest }) := by
        rw [serving_of_none hidle]
        exact memWrite_cmd w _
      _ = .next (raiseError .illegalCmd w (respond (.written false) { s with requests := rest })) :=
        writeCommand_of_illegal hd hidle
      _ = _ := by
        rw [raiseError_eq]
        rfl

/-- While busy, an aligned write to neither `STATUS` nor `CMD` is refused, a reserved offset's like a register's (R154). -/
theorem memWrite_refused {s : State} {p : Pending} {off : BitVec 8} (v : Word) (hbusy : s.pending = some p)
    (ha : off.toNat % 8 = 0) (hs : off ≠ Reg.status.offset) (hc : off ≠ Reg.cmd.offset) :
    memWrite off 8 v s = .next (raiseError .busyWrite (offsetInfo off) (respond (.written false) s)) := by
  rcases regAt_cases off ha with ⟨r, rfl, _⟩ | ⟨_, hreserved⟩
  · exact memWrite_busy r v hbusy (fun h => hs (h ▸ rfl)) (fun h => hc (h ▸ rfl))
  · exact memWrite_reserved_busy v ha hreserved hbusy

theorem raiseError_respond (c : Cause) (i : Word) (r : Response) (s : State) :
    raiseError c i (respond r s) =
      { s with response := some r, error := if s.error.isSome then s.error else some ⟨c, i⟩ } := by
  rw [raiseError_eq]
  cases h : s.error <;> simp [respond, h]

/-- An aligned write while busy changes the response and the error record alone (R57, R154). -/
theorem memWrite_of_busy {s : State} {p : Pending} {off : BitVec 8} (v : Word) (hbusy : s.pending = some p)
    (ha : off.toNat % 8 = 0) :
    memWrite off 8 v s = .next { s with
      response := some (.written false)
      error :=
        if off = 0x10 then if v.getLsbD 8 then none else s.error
        else if s.error.isSome then s.error
        else if off = 0x38 then some ⟨.busyCmd, v⟩
        else some ⟨.busyWrite, off.setWidth 64⟩ } := by
  by_cases hs : off = 0x10
  case pos =>
    subst hs
    refine (memWrite_status v s).trans ?_
    rw [clearsError]
    cases v.getLsbD 8 <;> rfl
  rw [if_neg hs]
  by_cases hc : off = 0x38
  case pos =>
    subst hc
    refine (memWrite_cmd v s).trans ?_
    rw [writeCommand_of_busy v (s := respond _ s) hbusy, raiseError_respond, if_pos rfl]
  case neg => rw [if_neg hc, memWrite_refused v hbusy ha hs hc, raiseError_respond, offsetInfo]

/-- A well-formed read records nothing (R154). -/
theorem memRead_error {off size : BitVec 8} (s : State) (hw : accessWellFormed off size = true) :
    (memRead off size s).error = s.error := by
  rcases memRead_cases off size s with ⟨hbad, _⟩ | ⟨_, _, h⟩ | ⟨r, _, _, _, h⟩ | ⟨r, v, _, _, _, _, h⟩
  · cases hw.symm.trans hbad
  all_goals rw [h]; rfl

@[simp] theorem memRead_pending (off size : BitVec 8) (s : State) : (memRead off size s).pending = s.pending := by
  rw [memRead_frame]

/-- Settles O20: the port serves the access while the operation runs on, by `memWrite_of_busy` or by a read that records
nothing. -/
theorem writesWhileBusyAreRefused : Obligations.WritesWhileBusyAreRefused := by
  intro s p rest off v hbusy hleft hn ha
  have hdue : ∀ q, s.pending = some q → q.left ≠ 0 := by
    rintro q hq
    cases hbusy.symm.trans hq
    exact hleft
  have hserving : (serving s).pending = some ⟨p.op, p.left - 1⟩ := by simp [serving, hbusy]
  constructor
  case left =>
    intro hr
    rw [step_of_write hn hdue hr, memWrite_of_busy v (s := { serving s with requests := rest }) hserving ha]
    simp [serving, hbusy]
  case right =>
    intro hr
    exact ⟨_, step_of_read hn hdue hr, memRead_error _ (accessWellFormed_of_aligned ha), (memRead_pending ..).trans hserving⟩

end Sys2Proof.Machine
end

section
/-! PROOFS. Errors are precise (60_exceptions.md R159). -/

namespace Sys2Proof.Machine

/-- The response and the record do not depend on each other, so their order is free. -/
theorem respond_raiseError (r : Response) (c : Cause) (i : Word) (s : State) :
    respond r (raiseError c i s) = raiseError c i (respond r s) := by
  rw [raiseError_eq, raiseError_eq]
  rfl

@[simp] theorem pollOnce_error (s : State) : (pollOnce s).error = s.error := by rw [pollOnce_frame]

/-- What a service does to the record: it keeps it, clears it, or raises an error, and then does nothing more than take the
action off the queue and answer. -/
theorem Served.error_cases {s t : State} (h : Served s t) :
    t.error = s.error ∨ t.error = none ∨
      ∃ c i r, t = raiseError c i (respond r { serving s with requests := s.requests.tail }) := by
  cases h with
  | quiet hr => exact .inl rfl
  | assertReset rest hr => exact .inr (.inl rfl)
  | releaseReset rest hr => exact .inl rfl
  | read rest off size hr hn =>
    cases hw : accessWellFormed off size with
    | true => exact .inl (memRead_error _ hw)
    | false =>
      rw [memRead_malformed _ hw, respond_raiseError, hr]
      exact .inr (.inr ⟨_, _, _, rfl⟩)
  | poll rest hr hn => exact .inl (pollOnce_error _)
  | badWrite rest off size v hr hn hw =>
    rw [respond_raiseError, hr]
    exact .inr (.inr ⟨_, _, _, rfl⟩)
  | writeStatus rest size v hr hn hw =>
    cases clearsError v with
    | true => exact .inr (.inl rfl)
    | false => exact .inl rfl
  | refusedCommand rest size v cause info hr hn hw hc hwhy =>
    rw [hr]
    exact .inr (.inr ⟨_, _, _, rfl⟩)
  | acceptedCommand rest size v i op hr hn hw hp hd ho => exact .inl rfl
  | busyWrite rest off size v hr hn hw hp hs =>
    rw [hr]
    exact .inr (.inr ⟨_, _, _, rfl⟩)
  | store rest size r v hr hn hw hp => exact .inl (storeReg_error ..)
  | reserved rest off size v hr hn hw hp => exact .inl rfl

/-- Settles O25: a completion keeps the record, so the step is a service, and of its cases one alone leaves a record where none
was. -/
theorem errorsArePrecise : Obligations.ErrorsArePrecise := by
  intro s t e hclear hstep hrecorded
  rcases step_inversion hstep with ⟨op, _, rfl⟩ | ⟨_, hserved⟩
  case inl =>
    rw [complete_error, hclear] at hrecorded
    cases hrecorded
  case inr =>
    rcases hserved.error_cases with hkept | hnone | ⟨c, i, r, rfl⟩
    · cases (hkept.trans hclear).symm.trans hrecorded
    · cases hnone.symm.trans hrecorded
    · have hraised := raiseError_of_none (s := respond r { serving s with requests := s.requests.tail }) c i hclear
      cases (congrArg State.error hraised).symm.trans hrecorded
      rw [hraised]
      rfl

end Sys2Proof.Machine
end

section
/-! PROOFS. Reads while busy: free draws and exact values (20_memory.md R56, 70_reset_and_hazards.md R184). -/

namespace Sys2Proof.Machine

/-! `STATUS` around its two drawn fields (10_state.md R23) -/

@[simp] theorem packStatus_phase (busy : Bool) (ph : BitVec 2) (v : BitVec 3) (e : Bool) (c : BitVec 4) :
    (packStatus busy ph v e c).extractLsb' 1 2 = ph :=
  (BitVec.extractLsb'_append_eq_of_le (Nat.le_refl 1)).trans BitVec.extractLsb'_append_eq_right

@[simp] theorem packStatus_variant (busy : Bool) (ph : BitVec 2) (v : BitVec 3) (e : Bool) (c : BitVec 4) :
    (packStatus busy ph v e c).extractLsb' 4 3 = v := by
  calc (packStatus busy ph v e c).extractLsb' 4 3
    _ = ((0 : BitVec 48) ++ c ++ (0 : BitVec 3) ++ BitVec.ofBool e ++ (0 : BitVec 1) ++ v ++ (0 : BitVec 1) ++
          ph).extractLsb' 3 3 := BitVec.extractLsb'_append_eq_of_le (by decide)
    _ = ((0 : BitVec 48) ++ c ++ (0 : BitVec 3) ++ BitVec.ofBool e ++ (0 : BitVec 1) ++ v ++ (0 : BitVec 1)).extractLsb' 1 3 :=
          BitVec.extractLsb'_append_eq_of_le (by decide)
    _ = ((0 : BitVec 48) ++ c ++ (0 : BitVec 3) ++ BitVec.ofBool e ++ (0 : BitVec 1) ++ v).extractLsb' 0 3 :=
          BitVec.extractLsb'_append_eq_of_le (by decide)
    _ = v := BitVec.extractLsb'_append_eq_right

/-- A mask with ones over three of five adjacent fields clears the other two. -/
theorem append_and_mask {n m k l j : Nat} (hi : BitVec n) (x : BitVec m) (mid : BitVec k) (y : BitVec l) (lo : BitVec j) :
    (hi ++ x ++ mid ++ y ++ lo) &&&
        (BitVec.allOnes n ++ (0 : BitVec m) ++ BitVec.allOnes k ++ (0 : BitVec l) ++ BitVec.allOnes j) =
      hi ++ (0 : BitVec m) ++ mid ++ (0 : BitVec l) ++ lo := by
  simp

/-- `0x76` covers PHASE and VARIANT and nothing else. -/
theorem packStatus_and_exactBits (busy : Bool) (ph : BitVec 2) (v : BitVec 3) (e : Bool) (c : BitVec 4) :
    packStatus busy ph v e c &&& ~~~(0x76 : Word) = packStatus busy 0 0 e c := by
  have hmask : ~~~(0x76 : Word) =
      BitVec.allOnes 57 ++ (0 : BitVec 3) ++ BitVec.allOnes 1 ++ (0 : BitVec 2) ++ BitVec.allOnes 1 := by decide
  rw [hmask]
  exact append_and_mask ..

theorem statusWordDrawn_and_exactBits (draw : Word) (s : State) :
    statusWordDrawn draw s &&& ~~~(0x76 : Word) = statusWord s &&& ~~~(0x76 : Word) := by
  rw [statusWordDrawn, statusWord, packStatus_and_exactBits, packStatus_and_exactBits]

/-! Which registers draw and which read exactly -/

/-- The registers that read as a whole free word while busy (R56). -/
def drawnRegs : List Reg := [.a, .b, .out0, .out1, .remain, .lenl]

/-- The registers that read exactly while busy (R56). -/
def exactRegs : List Reg := [.id, .ctrl, .seed, .len, .din0, .din1, .cmd, .rot0, .rot1, .errinfo]

theorem readWhileBusy_of_mem_drawnRegs {r : Reg} (draw : Word) (s : State) (h : r ∈ drawnRegs) :
    readWhileBusy r draw s = some draw := by
  revert r
  simp [drawnRegs, readWhileBusy]

theorem readWhileBusy_eq_none_iff {r : Reg} {draw : Word} {s : State} :
    readWhileBusy r draw s = none ↔ r ∈ exactRegs := by
  cases r <;> simp [exactRegs, readWhileBusy]

/-- `CTRL` shows `USE_SEED` in bit 0 and 0 elsewhere (R22). -/
theorem readReg_ctrl (s : State) : readReg .ctrl s = if s.useSeed then 1 else 0 := by
  cases h : s.useSeed <;> simp [readReg, h]

theorem regAt_of_reserved {off : BitVec 8} (ha : off.toNat % 8 = 0) (hge : 0x88 ≤ off.toNat) : regAt off = none := by
  rcases regAt_cases off ha with ⟨r, rfl, _⟩ | ⟨_, hnone⟩
  · have hbelow : r.offset.toNat < 0x88 := by cases r <;> decide
    omega
  · exact hnone

/-! A step that serves a read while an operation runs on -/

section Running

variable {s : State} {p : Pending} {rest : List HostAction}

theorem step_of_read_running {off : BitVec 8} (hbusy : s.pending = some p) (hleft : p.left ≠ 0) (hn : s.inReset = false)
    (hr : s.requests = .access (.read off 8) :: rest) :
    step s = .next (memRead off 8 (tick p { s with requests := rest })) := by
  have hdue : ∀ q, s.pending = some q → q.left ≠ 0 := by
    rintro q hq
    cases hbusy.symm.trans hq
    exact hleft
  rw [step_of_read hn hdue hr, serving, hbusy]
  rfl

/-- The operation in progress stays one, so `BUSY` still shows. -/
theorem busy_tick (hbusy : s.pending = some p) : (tick p { s with requests := rest }).busy = s.busy :=
  (busy_of_some (tick_pending ..)).trans (busy_of_some hbusy).symm

theorem readReg_tick (r : Reg) (hbusy : s.pending = some p) :
    readReg r (tick p { s with requests := rest }) = readReg r s := by
  cases r
  case status => rw [readReg, statusWord, busy_tick hbusy]; rfl
  all_goals rfl

theorem statusWordDrawn_tick (draw : Word) (hbusy : s.pending = some p) :
    statusWordDrawn draw (tick p { s with requests := rest }) = statusWordDrawn draw s := by
  rw [statusWordDrawn, busy_tick hbusy]
  rfl

end Running

/-- Settles O27: the port serves the read while the operation runs on, and the register the offset names says whether the
read draws. -/
theorem readsWhileBusyAreFree : Obligations.ReadsWhileBusyAreFree := by
  intro s p rest off hbusy hleft hn hr
  have hstep := step_of_read_running hbusy hleft hn hr
  have hticked : (tick p { s with requests := rest }).pending = some ⟨p.op, p.left - 1⟩ := tick_pending ..
  refine ⟨?drawn, ?status, ?exact⟩
  case drawn =>
    intro (hoff : off ∈ drawnRegs.map Reg.offset)
    obtain ⟨r, hmem, rfl⟩ := List.mem_map.1 hoff
    rw [hstep, memRead_drawn r hticked (readWhileBusy_of_mem_drawnRegs _ _ hmem)]
    rfl
  case status =>
    rintro rfl
    refine ⟨statusWordDrawn (Config.freeWord s.draws) s, statusWordDrawn_and_exactBits _ s, packStatus_phase ..,
      packStatus_variant .., ?_⟩
    rw [hstep, ← statusWordDrawn_tick _ hbusy]
    exact congrArg _ (memRead_drawn .status hticked rfl)
  case exact =>
    rintro v (hentry | ⟨ha, hge, rfl⟩)
    case inl =>
      have hlisted : (off, v) ∈ exactRegs.map fun r => (r.offset, readReg r s) := by
        simp only [exactRegs, List.map, readReg_id, readReg_ctrl, readReg_rot0, readReg_rot1]
        exact hentry
      obtain ⟨r, hmem, heq⟩ := List.mem_map.1 hlisted
      cases heq
      rw [hstep, memRead_exact r hticked (readWhileBusy_eq_none_iff.2 hmem), readReg_tick r hbusy]
      rfl
    case inr =>
      rw [hstep, memRead_reserved _ ha (regAt_of_reserved ha hge)]
      rfl

end Sys2Proof.Machine
end

section
/-! PROOFS. The round trip between commands and their words (30_encoding.md R70 to R79). -/

namespace Sys2Proof

/-- A word is `LE64` of its eight lanes (R52). -/
@[simp] theorem le64_bytesLE (w : Word) : le64 (bytesLE w) = w :=
  eq_of_byteLane_eq fun _ ht => (byteLane_le64 (bytesLE w) ht).trans (bytesLE_getD w ht)

/-- On the bus a command word is its eight lanes, so the two decoders agree. -/
theorem decodeBytes_bytesLE (w : Word) : decodeBytes (bytesLE w) = decode w := by
  rw [decodeBytes, if_pos (bytesLE_length w), le64_bytesLE]

/-- MIX keeps its count whatever it is; the other commands have one word each, which is evaluated. -/
theorem decode_encode (i : Instr) : decode (encode i) = .command i := by
  cases i
  case mix n =>
    calc decode (commandWord 0x01 n)
      _ = .command (.mix (argField (commandWord 0x01 n))) :=
        decode_of_opField_one (rsvField_commandWord ..) (opField_commandWord ..)
      _ = .command (.mix n) := by rw [argField_commandWord]
  all_goals decide

end Sys2Proof

namespace Sys2Proof.Machine

/-- Settles O2: `decode_encode` on the word, and on its bytes after `decodeBytes_bytesLE`. -/
theorem decodeOfEncodeIsTheCommand : Obligations.DecodeOfEncodeIsTheCommand :=
  fun i _ => ⟨decode_encode i, (decodeBytes_bytesLE _).trans (decode_encode i)⟩

/-- Settles O3: the decoder's cases, each with the word it came from. -/
theorem encodeOfDecodeIsTheWord : Obligations.EncodeOfDecodeIsTheWord := fun _ _ => encode_of_decode

end Sys2Proof.Machine
end

section
/-! PROOFS. What a step can do to the registers, and the invariant (10_state.md R34, R43, R44,
70_reset_and_hazards.md R180). -/

namespace Sys2Proof.Machine

/-- From `s` to `t` nothing moved but the port's own fields, the draw counter, the error record and the reset input. -/
def SameRegisters (s t : State) : Prop :=
  t = { s with error := t.error, inReset := t.inReset, requests := t.requests, response := t.response, draws := t.draws }

namespace SameRegisters

variable {s t u : State}

theorem trans (h : SameRegisters s t) (h' : SameRegisters t u) : SameRegisters s u := by
  unfold SameRegisters at h h' ⊢
  rw [h', h]

theorem wrapper_eq (h : SameRegisters s t) : t.wrapper = s.wrapper := by rw [h]
theorem remain_eq (h : SameRegisters s t) : t.remain = s.remain := by rw [h]
theorem lenl_eq (h : SameRegisters s t) : t.lenl = s.lenl := by rw [h]
theorem pending_eq (h : SameRegisters s t) : t.pending = s.pending := by rw [h]

/-- A command samples registers alone. -/
theorem resample_eq (h : SameRegisters s t) (op : Operation) : resample op t = resample op s := by
  rw [h]
  cases op <;> rfl

end SameRegisters

theorem sameRegisters_takeRequest (s : State) (rest : List HostAction) : SameRegisters s { s with requests := rest } := rfl

theorem sameRegisters_respond (r : Response) (s : State) : SameRegisters s (respond r s) := rfl

theorem sameRegisters_clearError (s : State) : SameRegisters s (clearError s) := rfl

theorem sameRegisters_releaseReset (s : State) : SameRegisters s (releaseReset s) := rfl

theorem sameRegisters_raiseError (c : Cause) (i : Word) (s : State) : SameRegisters s (raiseError c i s) := by
  rw [raiseError_eq]
  rfl

theorem sameRegisters_memRead (off size : BitVec 8) (s : State) : SameRegisters s (memRead off size s) := by
  rw [memRead_frame]
  rfl

theorem sameRegisters_pollOnce (s : State) : SameRegisters s (pollOnce s) := by
  rw [pollOnce_frame]
  rfl

/-- What a service can do to the registers: `Effect s t`, from `s` to `t`. -/
inductive Effect (s : State) : State → Prop where
  /-- Nothing, while the operation in progress runs on; out of reset, unless nothing was asked. -/
  | kept {t : State} (hn : t.inReset = false ∨ t = serving s) (h : SameRegisters (serving s) t) : Effect s t
  /-- Reset was asserted. -/
  | reset (rest : List HostAction) (hr : s.requests = .assertReset :: rest) :
      Effect s (assertReset { s with requests := rest })
  /-- A command was accepted. -/
  | accepted (rest : List HostAction) (w : Word) (i : Instr) (op : Operation)
      (hr : s.requests = .access (.write Reg.cmd.offset 8 w) :: rest) (hn : s.inReset = false) (hp : s.pending = none)
      (hd : decode w = .command i) (ho : sampleOf i s = some op) :
      Effect s (accept op (respond (.written false) { s with requests := rest }))
  /-- A register was written. -/
  | stored (rest : List HostAction) (r : Reg) (v : Word) (hr : s.requests = .access (.write r.offset 8 v) :: rest)
      (hn : s.inReset = false) (hp : s.pending = none) :
      Effect s (storeReg r v (respond (.written false) { s with requests := rest }))

theorem size_eq_of_accessWellFormed {off size : BitVec 8} (h : accessWellFormed off size = true) : size = 8 :=
  ((accessWellFormed_iff off size).1 h).1

/-- Every service has one of the four effects. -/
theorem Served.effect {s t : State} (h : Served s t) : Effect s t := by
  have htaken (rest : List HostAction) := sameRegisters_takeRequest (serving s) rest
  have hanswered (rest : List HostAction) (r : Response) := (htaken rest).trans (sameRegisters_respond r _)
  cases h with
  | quiet hr => exact .kept (.inr rfl) rfl
  | assertReset rest hr => exact .reset rest hr
  | releaseReset rest hr => exact .kept (.inl rfl) ((htaken rest).trans (sameRegisters_releaseReset _))
  | read rest off size hr hn =>
    have hsame := sameRegisters_memRead off size { serving s with requests := rest }
    exact .kept (.inl (by rw [memRead_frame]; exact hn)) ((htaken rest).trans hsame)
  | poll rest hr hn =>
    have hsame := sameRegisters_pollOnce { serving s with requests := rest }
    exact .kept (.inl (by rw [pollOnce_frame]; exact hn)) ((htaken rest).trans hsame)
  | badWrite rest off size v hr hn hw =>
    rw [respond_raiseError]
    exact .kept (.inl ((raiseError_inReset ..).trans hn)) ((hanswered rest _).trans (sameRegisters_raiseError _ _ _))
  | writeStatus rest size v hr hn hw =>
    cases clearsError v with
    | true => exact .kept (.inl hn) ((hanswered rest _).trans (sameRegisters_clearError _))
    | false => exact .kept (.inl hn) (hanswered rest _)
  | refusedCommand rest size v cause info hr hn hw hc hwhy =>
    exact .kept (.inl ((raiseError_inReset ..).trans hn)) ((hanswered rest _).trans (sameRegisters_raiseError _ _ _))
  | acceptedCommand rest size v i op hr hn hw hp hd ho =>
    cases size_eq_of_accessWellFormed hw
    exact .accepted rest v i op hr hn hp hd ho
  | busyWrite rest off size v hr hn hw hp hs =>
    exact .kept (.inl ((raiseError_inReset ..).trans hn)) ((hanswered rest _).trans (sameRegisters_raiseError _ _ _))
  | store rest size r v hr hn hw hp =>
    cases size_eq_of_accessWellFormed hw
    exact .stored rest r v hr hn hp
  | reserved rest off size v hr hn hw hp =>
    have hsame := hanswered rest (.written false)
    rw [serving_of_none hp] at hsame
    exact .kept (.inl hn) (by rwa [serving_of_none hp])

/-! When BLOCK and FINISH sample their operands, and which (10_state.md R43) -/

/-- BLOCK's sequence check is `ABSORB` with something remaining (R129). -/
theorem sampleBlock_eq_some_iff {s : State} {op : Operation} :
    sampleBlock s = some op ↔
      ∃ v, s.wrapper = .absorb v ∧ s.remain ≠ 0 ∧ op = .block s.din0 s.din1 s.remain v s.a s.b := by
  constructor
  case mp =>
    intro h
    unfold sampleBlock at h
    split at h
    case h_1 v hw =>
      split at h <;> cases h
      exact ⟨v, hw, ‹_›, rfl⟩
    all_goals cases h
  case mpr =>
    rintro ⟨v, hw, hr, rfl⟩
    exact sampleOf_block hw hr

/-- FINISH's sequence check is `ABSORB` with nothing remaining (R131). -/
theorem sampleFinish_eq_some_iff {s : State} {op : Operation} :
    sampleFinish s = some op ↔
      ∃ v, s.wrapper = .absorb v ∧ s.remain = 0 ∧ op = .finish s.lenl v s.a s.b := by
  constructor
  case mp =>
    intro h
    unfold sampleFinish at h
    split at h
    case h_1 v hw =>
      split at h <;> cases h
      exact ⟨v, hw, ‹_›, rfl⟩
    all_goals cases h
  case mpr =>
    rintro ⟨v, hw, hr, rfl⟩
    exact sampleOf_finish hw hr

/-- The operands a command sampled are those its operation samples again from the same registers. -/
theorem resample_of_sampleOf {i : Instr} {s : State} {op : Operation} (h : sampleOf i s = some op) :
    resample op s = some op := by
  cases i
  case block =>
    obtain ⟨v, _, _, rfl⟩ := sampleBlock_eq_some_iff.1 h
    exact h
  case finish =>
    obtain ⟨v, _, _, rfl⟩ := sampleFinish_eq_some_iff.1 h
    exact h
  all_goals
    cases h
    rfl

theorem resample_serving (op : Operation) (s : State) : resample op (serving s) = resample op s := by
  cases op <;> rfl

theorem resample_accept (op op' : Operation) (s : State) : resample op (accept op' s) = resample op s := by
  cases op <;> rfl

/-! The invariant -/

namespace Inv

variable {s t : State}

/-- With the phase, `REMAIN` and `LENL` kept, the two clauses on the progress registers are kept. -/
theorem of_progress_eq (hi : Inv s) (hw : t.wrapper = s.wrapper) (hr : t.remain = s.remain) (hl : t.lenl = s.lenl)
    (hsampled : SampledInv t) (hreset : ResetInv t) : Inv t where
  progress := by simpa only [ProgressInv, hw, hr, hl] using hi.progress
  wholeChunks := by simpa only [WholeChunksInv, hr, hl] using hi.wholeChunks
  sampled := hsampled
  reset := hreset

theorem sampled_of_idle (h : s.pending = none) : SampledInv s := by
  intro p hp
  rw [h] at hp
  cases hp

theorem reset_of_released (h : s.inReset = false) : ResetInv s := by
  intro hreset
  cases h.symm.trans hreset

/-- While reset is asserted nothing is pending, so a busy block is out of reset (R180). -/
theorem inReset_of_busy (hi : Inv s) {p : Pending} (hp : s.pending = some p) : s.inReset = false := by
  refine Bool.eq_false_iff.2 fun hreset => ?_
  have hnone : s.pending = none := by rw [hi.reset hreset]; rfl
  cases hnone.symm.trans hp

/-- Being one step nearer to the end of an operation changes nothing that the invariant speaks of. -/
theorem serving (hi : Inv s) : Inv (serving s) := by
  refine hi.of_progress_eq rfl rfl rfl ?sampled ?reset
  case sampled =>
    intro p hp
    obtain ⟨q, hq, rfl⟩ := Option.map_eq_some_iff.1 hp
    exact (resample_serving q.op s).trans (hi.sampled q hq)
  case reset =>
    intro hreset
    have hnone : s.pending = none := by rw [hi.reset hreset]; rfl
    rw [serving_of_none hnone]
    exact hi.reset hreset

theorem of_sameRegisters (hi : Inv s) (h : SameRegisters s t) (hreset : ResetInv t) : Inv t := by
  refine hi.of_progress_eq h.wrapper_eq h.remain_eq h.lenl_eq (fun p hp => ?_) hreset
  rw [h.pending_eq] at hp
  exact (h.resample_eq p.op).trans (hi.sampled p hp)

theorem assertReset (s : State) : Inv (assertReset s) where
  progress := ⟨fun _ => ⟨rfl, rfl⟩, fun _ => rfl, BitVec.le_refl 0⟩
  wholeChunks := .inl rfl
  sampled := sampled_of_idle rfl
  reset := fun _ => rfl

/-- In `ABSORB` the phase asks nothing of `REMAIN` but its bound, and a BLOCK only lowers it. -/
theorem progress_afterBlock {v : Variant} (hw : s.wrapper = .absorb v) (hle : s.remain ≤ s.lenl) :
    ProgressInv { s with remain := remainAfterBlock s.remain } := by
  have hremain := toNat_remainAfterBlock s.remain
  refine ⟨by simp [hw, Wrapper.phaseCode], by simp [hw, Wrapper.phaseCode], ?_⟩
  rw [BitVec.le_def] at hle ⊢
  dsimp only
  omega

/-- A BLOCK takes 16 bytes, or the last ones. -/
theorem wholeChunks_afterBlock (hle : s.remain ≤ s.lenl) (h : WholeChunksInv s) :
    WholeChunksInv { s with remain := remainAfterBlock s.remain } := by
  have hremain := toNat_remainAfterBlock s.remain
  rw [BitVec.le_def] at hle
  by_cases hlast : s.remain.toNat ≤ 16
  case pos => exact .inl (BitVec.eq_of_toNat_eq (hremain.trans (Nat.sub_eq_zero_of_le hlast)))
  case neg =>
    have hwhole : (s.lenl.toNat - s.remain.toNat) % 16 = 0 := h.resolve_left (by bv_omega)
    refine .inr ?_
    dsimp only
    omega

/-- A completion keeps the progress registers in step with the phase, since the operands are still those of the registers. -/
theorem complete (hi : Inv s) {op : Operation} {n : Nat} (hp : s.pending = some ⟨op, n⟩) : Inv (complete op s) := by
  have hsampled : SampledInv (Machine.complete op s) := sampled_of_idle (complete_pending op s)
  have hreset : ResetInv (Machine.complete op s) :=
    reset_of_released ((complete_inReset op s).trans (hi.inReset_of_busy hp))
  have hop : resample op s = some op := hi.sampled _ hp
  obtain ⟨_, _, hle⟩ := hi.progress
  cases op with
  | nop => exact hi.of_progress_eq rfl rfl rfl hsampled hreset
  | mix n a b => exact hi.of_progress_eq rfl rfl rfl hsampled hreset
  | start v u sd l =>
    refine ⟨?_, .inr ?_, hsampled, hreset⟩
    · simp [ProgressInv, complete_start, Wrapper.phaseCode]
    · simp [complete_start]
  | block d e r v a b =>
    obtain ⟨v, hw, hr, ho⟩ := sampleBlock_eq_some_iff.1 hop
    cases ho
    exact ⟨progress_afterBlock hw hle, wholeChunks_afterBlock hle hi.wholeChunks, hsampled, hreset⟩
  | finish l v a b =>
    obtain ⟨v, hw, hr, ho⟩ := sampleFinish_eq_some_iff.1 hop
    exact ⟨⟨by simp [complete_finish, Wrapper.phaseCode], fun _ => hr, hle⟩, .inl hr, hsampled, hreset⟩
  | abort => exact ⟨by simp [ProgressInv, complete_abort], .inl rfl, hsampled, hreset⟩

theorem effect (hi : Inv s) (h : Effect s t) : Inv t := by
  cases h with
  | kept hn h =>
    rcases hn with hn | rfl
    · exact hi.serving.of_sameRegisters h (reset_of_released hn)
    · exact hi.serving
  | reset rest hr => exact assertReset _
  | accepted rest w i op hr hn hp hd ho =>
    refine hi.of_progress_eq rfl rfl rfl ?_ (reset_of_released hn)
    rintro p ⟨⟩
    exact (resample_accept ..).trans (resample_of_sampleOf ho)
  | stored rest r v hr hn hp =>
    exact hi.of_progress_eq (storeReg_wrapper ..) (storeReg_remain ..) (storeReg_lenl ..)
      (sampled_of_idle ((storeReg_pending ..).trans hp)) (reset_of_released ((storeReg_inReset ..).trans hn))

end Inv

/-- Settles O34: a step completes an operation or is a service, and `Inv.complete` and `Inv.effect` keep the invariant. -/
theorem stepKeepsTheInvariant : Obligations.StepKeepsTheInvariant := by
  intro s t hi hstep
  rcases step_inversion hstep with ⟨op, hp, rfl⟩ | ⟨_, hserved⟩
  · exact hi.complete hp
  · exact hi.effect hserved.effect

/-- Settles O35: reset leaves nothing to absorb and nothing pending, and its input released. -/
theorem resetHasTheInvariant : Obligations.ResetHasTheInvariant where
  progress := by decide
  wholeChunks := .inl rfl
  sampled := Inv.sampled_of_idle rfl
  reset := Inv.reset_of_released rfl

end Sys2Proof.Machine
end

section
/-! PROOFS. What changes the error record (60_exceptions.md R151, R155, R158, R161). -/

namespace Sys2Proof.Machine

/-! The events that may move the record, as the head of the queue shows them -/

/-- The host writes `STATUS` with bit 8 set (10_state.md R28). -/
def ClearsRecord (s : State) : Prop :=
  ∃ v rest, s.requests = .access (.write 0x10 8 v) :: rest ∧ v.getLsbD 8 = true

/-- The host asserts reset (70_reset_and_hazards.md R180). -/
def AssertsReset (s : State) : Prop := ∃ rest, s.requests = .assertReset :: rest

/-- The host makes a malformed access (R156). -/
def MalformedAccess (s : State) : Prop :=
  ∃ (off size : BitVec 8) (rest : List HostAction), (size ≠ 8 ∨ off.toNat % 8 ≠ 0) ∧
    (s.requests = .access (.read off size) :: rest ∨ ∃ v, s.requests = .access (.write off size v) :: rest)

/-- The host writes elsewhere than to `STATUS` while busy (R154). -/
def RefusedWhileBusy (s : State) : Prop :=
  s.pending ≠ none ∧
    ∃ (off : BitVec 8) (v : Word) (rest : List HostAction), off ≠ 0x10 ∧ s.requests = .access (.write off 8 v) :: rest

/-- The host writes to `CMD`, while not busy, a word that is illegal or whose command is out of sequence (R152, R153). -/
def RefusedCommand (s : State) : Prop :=
  s.pending = none ∧ ∃ w rest, s.requests = .access (.write 0x38 8 w) :: rest ∧
    ((∃ why, decode w = .illegal why) ∨
      (decode w = .command .block ∧ ¬ (s.wrapper.phaseCode = 1 ∧ s.remain ≠ 0)) ∨
      (decode w = .command .finish ∧ ¬ (s.wrapper.phaseCode = 1 ∧ s.remain = 0)))

theorem malformed_of_accessWellFormed {off size : BitVec 8} (h : accessWellFormed off size = false) :
    size ≠ 8 ∨ off.toNat % 8 ≠ 0 := by
  rw [← not_and_or, ← accessWellFormed_iff, h]
  exact Bool.false_ne_true

/-- Recording an error keeps the record, unless there was none. -/
theorem raiseError_error_cases (c : Cause) (i : Word) (s : State) :
    (raiseError c i s).error = s.error ∨ s.error = none := by
  cases h : s.error with
  | none => exact .inr rfl
  | some e => exact .inl ((congrArg State.error (raiseError_of_some c i h)).trans h)

/-- A command whose sequence check fails is a BLOCK or a FINISH, so its word is one of the refused ones. -/
theorem refusedCommand_of_sampleOf {s : State} {rest : List HostAction} {w : Word} {i : Instr} (hp : s.pending = none)
    (hr : s.requests = .access (.write 0x38 8 w) :: rest) (hd : decode w = .command i) (ho : sampleOf i s = none) :
    RefusedCommand s := by
  refine ⟨hp, w, rest, hr, .inr ?_⟩
  rcases sampleOf_eq_none.1 ho with ⟨rfl, hseq⟩ | ⟨rfl, hseq⟩
  · exact .inl ⟨hd, hseq⟩
  · exact .inr ⟨hd, hseq⟩

/-- A service keeps the record, or clears it by one of two events, or records an error by one of three. -/
theorem Served.error_changes {s t : State} (h : Served s t) :
    t.error = s.error ∨ (t.error = none ∧ (ClearsRecord s ∨ AssertsReset s)) ∨
      (s.error = none ∧ (MalformedAccess s ∨ RefusedWhileBusy s ∨ RefusedCommand s)) := by
  cases h with
  | quiet hr => exact .inl rfl
  | assertReset rest hr => exact .inr (.inl ⟨rfl, .inr ⟨rest, hr⟩⟩)
  | releaseReset rest hr => exact .inl rfl
  | read rest off size hr hn =>
    cases hw : accessWellFormed off size with
    | true => exact .inl (memRead_error _ hw)
    | false =>
      rw [memRead_malformed _ hw]
      exact (raiseError_error_cases _ _ _).imp id fun hnone =>
        .inr ⟨hnone, .inl ⟨off, size, rest, malformed_of_accessWellFormed hw, .inl hr⟩⟩
  | poll rest hr hn => exact .inl (pollOnce_error _)
  | badWrite rest off size v hr hn hw =>
    exact (raiseError_error_cases _ _ _).imp id fun hnone =>
      .inr ⟨hnone, .inl ⟨off, size, rest, malformed_of_accessWellFormed hw, .inr ⟨v, hr⟩⟩⟩
  | writeStatus rest size v hr hn hw =>
    cases size_eq_of_accessWellFormed hw
    cases hv : clearsError v with
    | true => exact .inr (.inl ⟨rfl, .inl ⟨v, rest, hr, hv⟩⟩)
    | false => exact .inl rfl
  | refusedCommand rest size v cause info hr hn hw hc hwhy =>
    cases size_eq_of_accessWellFormed hw
    refine (raiseError_error_cases _ _ _).imp id fun hnone => .inr ⟨hnone, .inr ?_⟩
    by_cases hp : s.pending = none
    case neg => exact .inl ⟨hp, _, v, rest, by decide, hr⟩
    case pos =>
      rcases hwhy with hbusy | hillegal | ⟨i, hd, ho⟩
      · exact absurd hp hbusy
      · exact .inr ⟨hp, v, rest, hr, .inl hillegal⟩
      · exact .inr (refusedCommand_of_sampleOf hp hr hd ho)
  | acceptedCommand rest size v i op hr hn hw hp hd ho => exact .inl rfl
  | busyWrite rest off size v hr hn hw hp hs =>
    cases size_eq_of_accessWellFormed hw
    have hoff : off ≠ 0x10 := fun h => hs (by rw [h]; rfl)
    exact (raiseError_error_cases _ _ _).imp id fun hnone => .inr ⟨hnone, .inr (.inl ⟨hp, off, v, rest, hoff, hr⟩)⟩
  | store rest size r v hr hn hw hp => exact .inl (storeReg_error ..)
  | reserved rest off size v hr hn hw hp => exact .inl rfl

/-- Settles O24: a completion keeps the record, and of the events of a service the two that clear it alone move one. -/
theorem firstErrorWins : Obligations.FirstErrorWins := by
  intro s t e he hstep
  rcases step_inversion hstep with ⟨op, _, rfl⟩ | ⟨_, hserved⟩
  case inl => exact .inl ((complete_error ..).trans he)
  case inr =>
    rcases hserved.error_changes with hkept | hcleared | ⟨hnone, _⟩
    · exact .inl (hkept.trans he)
    · exact .inr hcleared
    · cases hnone.symm.trans he

/-! The checks of a write in their order (R158) -/

/-- What the issue of a command records while not busy: `SEQUENCE`, or nothing (R153). -/
theorem exec_error_of_idle {i : Instr} {s t : State} (hp : s.pending = none) (hnone : s.error = none)
    (h : exec i s = .next t) :
    t.error =
      if i = .block ∧ ¬ (s.wrapper.phaseCode = 1 ∧ s.remain ≠ 0) then some ⟨.sequence, encode i⟩
      else if i = .finish ∧ ¬ (s.wrapper.phaseCode = 1 ∧ s.remain = 0) then some ⟨.sequence, encode i⟩
      else none := by
  cases ho : sampleOf i s with
  | none =>
    have herror : t.error = some ⟨.sequence, encode i⟩ := by
      cases (exec_of_out_of_sequence hp ho).symm.trans h
      simp [hnone]
    rw [herror]
    rcases sampleOf_eq_none.1 ho with hblock | ⟨rfl, hseq⟩
    · rw [if_pos hblock]
    · rw [if_neg (by simp), if_pos ⟨rfl, hseq⟩]
  | some op =>
    cases (exec_of_idle hp ho).symm.trans h
    have hpass := mt sampleOf_eq_none.2 (by rw [ho]; exact Option.some_ne_none op)
    rw [if_neg fun hblock => hpass (.inl hblock), if_neg fun hfinish => hpass (.inr hfinish)]
    exact hnone

/-- What a write to `CMD` records while not busy: `ILLEGAL_CMD`, `SEQUENCE` or nothing (R152, R153). -/
theorem writeCommand_error_of_idle {w : Word} {s t : State} (hp : s.pending = none) (hnone : s.error = none)
    (h : writeCommand w s = .next t) :
    t.error =
      match decode w with
      | .illegal _ => some ⟨.illegalCmd, w⟩
      | .command i =>
        if i = .block ∧ ¬ (s.wrapper.phaseCode = 1 ∧ s.remain ≠ 0) then some ⟨.sequence, w⟩
        else if i = .finish ∧ ¬ (s.wrapper.phaseCode = 1 ∧ s.remain = 0) then some ⟨.sequence, w⟩
        else none := by
  cases hd : decode w with
  | illegal why =>
    cases (writeCommand_of_illegal hd hp).symm.trans h
    simp [hnone]
  | command i =>
    have hexec : exec i s = .next t := by simpa only [writeCommand, hd] using h
    have herror := exec_error_of_idle hp hnone hexec
    rw [encode_of_decode hd] at herror
    exact herror

/-- What an aligned write records while busy (R154). -/
theorem memWrite_error_of_busy {off : BitVec 8} {v : Word} {s t : State} {p : Pending} (hp : s.pending = some p)
    (hnone : s.error = none) (ha : off.toNat % 8 = 0) (h : memWrite off 8 v s = .next t) :
    t.error =
      if off = 0x10 then none else some (if off = 0x38 then ⟨.busyCmd, v⟩ else ⟨.busyWrite, off.setWidth 64⟩) := by
  cases (memWrite_of_busy v hp ha).symm.trans h
  simp [hnone, apply_ite some]

/-- A write to `STATUS` records nothing (10_state.md R28). -/
theorem memWrite_status_error {v : Word} {s t : State} (hnone : s.error = none)
    (h : memWrite Reg.status.offset 8 v s = .next t) : t.error = none := by
  cases (memWrite_status v s).symm.trans h
  cases clearsError v
  · exact hnone
  · rfl

/-- Elsewhere than at `STATUS` and `CMD` an aligned write while not busy records nothing (R57). -/
theorem memWrite_error_of_idle {off : BitVec 8} {v : Word} {s t : State} (hp : s.pending = none)
    (ha : off.toNat % 8 = 0) (hs : off ≠ Reg.status.offset) (hc : off ≠ Reg.cmd.offset)
    (h : memWrite off 8 v s = .next t) : t.error = s.error := by
  rcases regAt_cases off ha with ⟨r, rfl, _⟩ | ⟨_, hreserved⟩
  · cases (memWrite_idle r v hp (fun h => hs (h ▸ rfl)) (fun h => hc (h ▸ rfl))).symm.trans h
    exact storeReg_error ..
  · cases (memWrite_reserved_idle v ha hreserved hp).symm.trans h
    rfl

/-- Settles O23: the branches of the write in the order in which it makes its checks. -/
theorem checksRunInTheirOrder : Obligations.ChecksRunInTheirOrder := by
  intro s t rest off size v hn hdue hnone hr hstep
  rw [step_of_write hn hdue hr] at hstep
  by_cases hbad : size ≠ 8 ∨ off.toNat % 8 ≠ 0
  case pos =>
    cases (memWrite_malformed v _ (accessWellFormed_eq_false hbad)).symm.trans hstep
    rw [if_pos hbad, respond_error, raiseError_error, accessInfo_eq_ofNat]
    simp [serving, hnone]
  rw [if_neg hbad]
  obtain ⟨rfl, ha⟩ : size = 8 ∧ off.toNat % 8 = 0 := by tauto
  cases hp : s.pending with
  | some p =>
    have hbusy : (serving s).pending = some ⟨p.op, p.left - 1⟩ := by simp [serving, hp]
    exact memWrite_error_of_busy (s := { serving s with requests := rest }) hbusy hnone ha hstep
  | none =>
    rw [serving_of_none hp] at hstep
    simp only [Option.isSome_none, Bool.false_eq_true, if_false]
    by_cases hs : off = 0x10
    case pos =>
      subst hs
      exact memWrite_status_error (s := { s with requests := rest }) hnone hstep
    rw [if_neg hs]
    by_cases hc : off = 0x38
    case pos =>
      subst hc
      exact writeCommand_error_of_idle (s := respond _ { s with requests := rest }) hp hnone hstep
    case neg =>
      have hkept : t.error = s.error := memWrite_error_of_idle (s := { s with requests := rest }) hp ha hs hc hstep
      rw [hkept, hnone, if_neg hc]

end Sys2Proof.Machine
end

section
/-! PROOFS. Which events change which register, the phase and `BUSY` (10_state.md R26, R42, 41_hash_wrapper.md R136). -/

namespace Sys2Proof.Machine

/-! The register in which a write stores is the only one that it can change (20_memory.md R57) -/

section StoreReg

variable {r : Reg} {v : Word} {s : State}

theorem reg_eq_a_of_storeReg (h : (storeReg r v s).a ≠ s.a) : r = .a := by
  revert h
  cases r <;> simp [storeReg]

theorem reg_eq_b_of_storeReg (h : (storeReg r v s).b ≠ s.b) : r = .b := by
  revert h
  cases r <;> simp [storeReg]

theorem reg_eq_ctrl_of_storeReg (h : (storeReg r v s).useSeed ≠ s.useSeed) : r = .ctrl := by
  revert h
  cases r <;> simp [storeReg]

theorem reg_eq_seed_of_storeReg (h : (storeReg r v s).seed ≠ s.seed) : r = .seed := by
  revert h
  cases r <;> simp [storeReg]

theorem reg_eq_len_of_storeReg (h : (storeReg r v s).len ≠ s.len) : r = .len := by
  revert h
  cases r <;> simp [storeReg]

theorem reg_eq_din0_of_storeReg (h : (storeReg r v s).din0 ≠ s.din0) : r = .din0 := by
  revert h
  cases r <;> simp [storeReg]

theorem reg_eq_din1_of_storeReg (h : (storeReg r v s).din1 ≠ s.din1) : r = .din1 := by
  revert h
  cases r <;> simp [storeReg]

end StoreReg

/-- Settles O31: a completion writes its operation's registers, a service is an `Effect`, and the record follows
`Served.error_changes`. -/
theorem onlyTheirWritersChangeRegisters : Obligations.OnlyTheirWritersChangeRegisters := by
  intro s t hstep hostWrites resets mixes starts blocks finishes aborts clears malformed refusedWhileBusy refusedCommand
  rcases step_inversion hstep with ⟨op, hp, rfl⟩ | ⟨_, hserved⟩
  case inl =>
    cases op with
    | nop => simp [complete_nop]
    | mix n a b =>
      have hmixes : mixes := ⟨n, a, b, hp⟩
      simp [complete_mix, hmixes]
    | start v u sd l =>
      have hstarts : starts := ⟨v, u, sd, l, hp⟩
      simp [complete_start, hstarts]
    | block d e r v a b =>
      have hblocks : blocks := ⟨d, e, r, v, a, b, hp⟩
      simp [complete_block, hblocks]
    | finish l v a b =>
      have hfinishes : finishes := ⟨l, v, a, b, hp⟩
      simp [complete_finish, hfinishes]
    | abort =>
      have haborts : aborts := hp
      simp [complete_abort, haborts]
  case inr =>
    have herror : t.error ≠ s.error → clears ∨ malformed ∨ refusedWhileBusy ∨ refusedCommand ∨ resets := by
      intro hne
      rcases hserved.error_changes with hkept | ⟨_, hcleared | hreset⟩ | ⟨_, hbad | hbusy | hcommand⟩
      · exact absurd hkept hne
      · exact .inl hcleared
      · exact .inr (.inr (.inr (.inr hreset)))
      · exact .inr (.inl hbad)
      · exact .inr (.inr (.inl hbusy))
      · exact .inr (.inr (.inr (.inl hcommand)))
    cases hserved.effect with
    | kept hn h =>
      rw [h] at herror ⊢
      simpa [serving] using herror
    | reset rest hr =>
      have hresets : resets := ⟨rest, hr⟩
      simp [hresets]
    | accepted rest w i op hr hn hp hd ho => simp
    | stored rest r v hr hn hp =>
      have hwrites (q : Reg) (hq : r = q) : hostWrites q.offset := hq ▸ ⟨hp, v, rest, hr⟩
      refine ⟨fun h => .inl (hwrites .a (reg_eq_a_of_storeReg h)), fun h => .inl (hwrites .b (reg_eq_b_of_storeReg h)),
        fun h => .inl (hwrites .ctrl (reg_eq_ctrl_of_storeReg h)), fun h => .inl (hwrites .seed (reg_eq_seed_of_storeReg h)),
        fun h => .inl (hwrites .len (reg_eq_len_of_storeReg h)), fun h => .inl (hwrites .din0 (reg_eq_din0_of_storeReg h)),
        fun h => .inl (hwrites .din1 (reg_eq_din1_of_storeReg h)), ?_⟩
      simp

/-- Settles O32: the completions that write the phase are those of START, FINISH and ABORT, and a service moves it only by
reset; the invariant says where a FINISH in progress was accepted. -/
theorem phaseChangesFollowTheTable : Obligations.PhaseChangesFollowTheTable := by
  intro s t hstep hne
  rcases step_inversion hstep with ⟨op, hp, rfl⟩ | ⟨_, hserved⟩
  case inl =>
    cases op with
    | nop => exact absurd rfl hne
    | mix n a b => exact absurd rfl hne
    | start v u sd l => exact .inl ⟨v, u, sd, l, hp, rfl⟩
    | block d e r v a b => exact absurd rfl hne
    | finish l v a b =>
      refine .inr (.inl ⟨l, v, a, b, hp, rfl, fun hi => ?_⟩)
      obtain ⟨v', hw, hr, ho⟩ := sampleFinish_eq_some_iff.1 (hi.sampled _ hp)
      cases ho
      exact ⟨hw, hr⟩
    | abort => exact .inr (.inr (.inl ⟨hp, rfl⟩))
  case inr =>
    cases hserved.effect with
    | kept hn h => exact absurd h.wrapper_eq hne
    | reset rest hr => exact .inr (.inr (.inr ⟨⟨rest, hr⟩, rfl⟩))
    | accepted rest w i op hr hn hp hd ho => exact absurd rfl hne
    | stored rest r v hr hn hp => exact absurd (storeReg_wrapper ..) hne

/-- Settles O33: a completion clears `BUSY`, and of a service's effects acceptance alone sets it and reset alone clears
it. -/
theorem busyFollowsAcceptedCommands : Obligations.BusyFollowsAcceptedCommands := by
  intro s t hstep
  rcases step_inversion hstep with ⟨op, hp, rfl⟩ | ⟨_, hserved⟩
  case inl => exact ⟨fun _ hset => absurd (complete_pending ..) hset, fun _ _ => .inl ⟨op, hp⟩⟩
  case inr =>
    have hserving : (serving s).pending = none ↔ s.pending = none := by simp [serving]
    cases hserved.effect with
    | kept hn h =>
      rw [h.pending_eq, ne_eq, hserving]
      exact ⟨fun hidle hset => absurd hidle hset, fun hbusy hclear => absurd hclear hbusy⟩
    | reset rest hr => exact ⟨fun _ hset => absurd rfl hset, fun _ _ => .inr ⟨rest, hr⟩⟩
    | accepted rest w i op hr hn hp hd ho =>
      exact ⟨fun _ _ => ⟨w, rest, i, hr, hd, rfl⟩, fun hbusy _ => absurd hp hbusy⟩
    | stored rest r v hr hn hp =>
      have hkept : (storeReg r v (respond (.written false) { s with requests := rest })).pending = none :=
        (storeReg_pending ..).trans hp
      exact ⟨fun _ hset => absurd hkept hset, fun hbusy _ => absurd hp hbusy⟩

end Sys2Proof.Machine
end

section
/-! PROOFS. Every step but a forbidden transaction answers, and reset (60_exceptions.md R150,
70_reset_and_hazards.md R180). -/

namespace Sys2Proof.Machine

theorem exec_answers (i : Instr) (s : State) : ∃ t, exec i s = .next t := by
  rw [exec_eq_issue]
  rcases issue_cases i (sampleOf i s) s with ⟨_, h⟩ | ⟨_, _, h⟩ | ⟨op, _, _, h⟩ <;> exact ⟨_, h⟩

theorem writeCommand_answers (w : Word) (s : State) : ∃ t, writeCommand w s = .next t := by
  unfold writeCommand
  cases decode w with
  | command i => exact exec_answers i s
  | illegal why =>
    dsimp only
    split <;> exact ⟨_, rfl⟩

theorem memWrite_answers (off size : BitVec 8) (v : Word) (s : State) : ∃ t, memWrite off size v s = .next t := by
  unfold memWrite writeWindow
  split
  case isTrue => exact ⟨_, rfl⟩
  case isFalse =>
    split
    case h_1 => exact ⟨_, rfl⟩
    case h_2 => exact writeCommand_answers v _
    all_goals split <;> exact ⟨_, rfl⟩

theorem transact_answers (t : Transaction) (s : State) : ∃ u, transact t s = .next u := by
  cases t with
  | read off size => exact ⟨_, rfl⟩
  | write off size v => exact memWrite_answers off size v s

/-- The port answers, unless reset is asserted and the next action is a transaction; then it stops. -/
theorem servePort_answers_or_stops (s : State) :
    (∃ t, servePort s = .next t) ∨
      (s.inReset = true ∧ nextIsTransaction s = true ∧ servePort s = .fault .transactionDuringReset) := by
  unfold servePort nextIsTransaction
  cases s.requests with
  | nil => exact .inl ⟨_, rfl⟩
  | cons action rest =>
    cases action with
    | assertReset => exact .inl ⟨_, rfl⟩
    | releaseReset => exact .inl ⟨_, rfl⟩
    | access t =>
      cases hn : s.inReset with
      | true => exact .inr ⟨rfl, rfl, hostActs_access_inReset t rfl⟩
      | false =>
        dsimp only
        rw [hostActs_access t rfl]
        exact .inl (transact_answers t _)
    | poll =>
      cases hn : s.inReset with
      | true => exact .inr ⟨rfl, rfl, hostActs_poll_inReset rfl⟩
      | false => exact .inl ⟨_, hostActs_poll rfl⟩

/-- A step answers, unless reset is asserted and the next action is a transaction (R180). -/
theorem step_answers_or_stops (s : State) :
    (∃ t, step s = .next t) ∨
      (s.inReset = true ∧ nextIsTransaction s = true ∧ step s = .fault .transactionDuringReset) := by
  rcases step_cases s with ⟨op, _, h⟩ | ⟨_, h⟩
  · exact .inl ⟨_, h⟩
  · rw [h]
    exact servePort_answers_or_stops (serving s)

theorem step_answers_of_released {s : State} (h : s.inReset = false) : ∃ t, step s = .next t :=
  (step_answers_or_stops s).resolve_right fun ⟨hreset, _⟩ => nomatch h.symm.trans hreset

/-- Settles O37: the one stop is `step_answers_or_stops`'s, which the host's duty rules out and which is no refusal. -/
theorem nothingFails : Obligations.NothingFails := by
  refine ⟨fun s hduty => ?_, fun s r hrefused => ?_, exec_answers⟩
  · refine (step_answers_or_stops s).resolve_right fun ⟨hreset, htransaction, _⟩ => ?_
    cases (hduty hreset).symm.trans htransaction
  · rcases step_answers_or_stops s with ⟨t, h⟩ | ⟨_, _, h⟩ <;> cases h.symm.trans hrefused

/-- Settles O38: of the actions, the two that are transactions stop in reset. -/
theorem transactionDuringResetStops : Obligations.TransactionDuringResetStops := by
  intro s hidle hreset htransaction
  rw [step_of_idle hidle]
  unfold servePort
  unfold nextIsTransaction at htransaction
  split at htransaction
  case h_1 t rest hr =>
    rw [hr]
    exact hostActs_access_inReset (s := { s with requests := rest }) t hreset
  case h_2 rest hr =>
    rw [hr]
    exact hostActs_poll_inReset (s := { s with requests := rest }) hreset
  all_goals cases htransaction

/-- Settles O40: the port serves the two actions one after the other, and between them nothing is pending. -/
theorem resetAbandonsTheOperation : Obligations.ResetAbandonsTheOperation := by
  intro s rest hr hdue
  refine ⟨assertReset { s with requests := rest }, step_of_action hdue hr, rfl, ?released⟩
  case released =>
    rintro rest' rfl
    exact step_of_action (s := assertReset { s with requests := .releaseReset :: rest' }) (fun _ h => nomatch h) rfl

/-- Settles O19: the port serves the write, and the decoder's answer is the command that `exec` runs. -/
theorem stepRunsTheDecodedCommand : Obligations.StepRunsTheDecodedCommand := by
  intro s rest w i hn hdue hr hd
  calc step s
    _ = memWrite 0x38 8 w { serving s with requests := rest } := step_of_write hn hdue hr
    _ = writeCommand w (respond (.written false) { serving s with requests := rest }) := memWrite_cmd w _
    _ = exec i (respond (.written false) { serving s with requests := rest }) := by simp only [writeCommand, hd]

end Sys2Proof.Machine
end

section
/-! PROOFS. An accepted operation completes, and `poll` ends (70_reset_and_hazards.md R185, 30_encoding.md R82). -/

namespace Sys2Proof.Machine

@[simp] theorem memRead_requests (off size : BitVec 8) (s : State) : (memRead off size s).requests = s.requests := by
  rw [memRead_frame]

/-- `poll` stands again at the head of the queue, or is over. -/
theorem pollOnce_requests (s : State) :
    (pollOnce s).requests = .poll :: s.requests ∨ (pollOnce s).requests = s.requests := by
  cases hp : s.pending with
  | none => exact .inr (by rw [pollOnce_idle hp]; rfl)
  | some p => exact .inl (by rw [pollOnce_busy hp])

/-- A service takes one action off the queue, or leaves it as it was. -/
theorem Served.requests_cases {s t : State} (h : Served s t) : t.requests = s.requests ∨ t.requests = s.requests.tail := by
  cases h with
  | quiet hr => exact .inl rfl
  | assertReset rest hr => rw [hr]; exact .inr rfl
  | releaseReset rest hr => rw [hr]; exact .inr rfl
  | read rest off size hr hn => rw [hr]; exact .inr (memRead_requests ..)
  | poll rest hr hn => rw [hr]; exact pollOnce_requests _
  | badWrite rest off size v hr hn hw => rw [hr]; exact .inr (raiseError_requests ..)
  | writeStatus rest size v hr hn hw =>
    rw [hr]
    cases clearsError v <;> exact .inr rfl
  | refusedCommand rest size v cause info hr hn hw hc hwhy => rw [hr]; exact .inr (raiseError_requests ..)
  | acceptedCommand rest size v i op hr hn hw hp hd ho => rw [hr]; exact .inr rfl
  | busyWrite rest off size v hr hn hw hp hs => rw [hr]; exact .inr (raiseError_requests ..)
  | store rest size r v hr hn hw hp => rw [hr]; exact .inr (storeReg_requests ..)
  | reserved rest off size v hr hn hw hp => rw [hr]; exact .inr rfl

/-- The host asserts no reset within the next `n` actions. -/
def NoResetWithin (n : Nat) (s : State) : Prop := HostAction.assertReset ∉ s.requests.take n

theorem NoResetWithin.of_served {s t : State} {n : Nat} (h : NoResetWithin (n + 1) s) (hserved : Served s t) :
    NoResetWithin n t := by
  intro hmem
  refine h ?_
  rcases hserved.requests_cases with hr | hr <;> rw [hr] at hmem
  · exact List.take_subset_take_left _ (Nat.le_succ n) hmem
  · exact List.mem_of_mem_tail (by rwa [List.tail_take_eq_take_tail])

/-- While an operation runs on, a step whose action is no reset brings it one step nearer to its end and keeps the
registers. -/
theorem step_of_running_without_reset {s : State} {op : Operation} {n : Nat} (hp : s.pending = some ⟨op, n + 1⟩)
    (hn : s.inReset = false) (hhost : NoResetWithin (n + 1) s) :
    ∃ t, step s = .next t ∧ SameRegisters (serving s) t ∧ t.inReset = false ∧ NoResetWithin n t := by
  obtain ⟨t, hstep⟩ := step_answers_of_released hn
  refine ⟨t, hstep, ?_⟩
  rcases step_inversion hstep with ⟨op', hdue, _⟩ | ⟨_, hserved⟩
  case inl => cases hp.symm.trans hdue
  case inr =>
    have hlater := hhost.of_served hserved
    cases hserved.effect with
    | kept hreset h => exact ⟨h, hreset.elim id (fun ht => by rw [ht]; exact hn), hlater⟩
    | reset rest hr => exact absurd (by simp [hr]) hhost
    | accepted rest w i op' hr _ hidle => cases hp.symm.trans hidle
    | stored rest r v hr _ hidle => cases hp.symm.trans hidle

/-- The state when an operation is due: pending for no more steps, with every register as it was. -/
theorem run_to_completion {n : Nat} {s : State} {op : Operation} (hp : s.pending = some ⟨op, n⟩) (hn : s.inReset = false)
    (hhost : NoResetWithin n s) : ∃ t : State,
      Host.Core.run Sys2Proof.core n s = .next t ∧
      Host.Core.run Sys2Proof.core (n + 1) s = .next (complete op t) ∧
      t = { s with
        pending := some ⟨op, 0⟩
        error := t.error
        requests := t.requests
        response := t.response
        draws := t.draws } := by
  induction n generalizing s with
  | zero =>
    refine ⟨s, run_zero s, (run_succ 0 (step_of_due hp)).trans (run_zero _), ?_⟩
    rw [← hp]
  | succ n ih =>
    obtain ⟨t, hstep, hsame, htn, hthost⟩ := step_of_running_without_reset hp hn hhost
    have htp : t.pending = some ⟨op, n⟩ := by simp [hsame.pending_eq, serving, hp]
    obtain ⟨u, hrun, hrun', hu⟩ := ih htp htn hthost
    refine ⟨u, (run_succ n hstep).trans hrun, (run_succ (n + 1) hstep).trans hrun', hu.trans ?_⟩
    rw [hsame, htn, hn]
    rfl

/-- Settles O41: `run_to_completion`, and a completion leaves nothing pending. -/
theorem completionIsGuaranteed : Obligations.CompletionIsGuaranteed := by
  intro n s op hp hn hhost
  obtain ⟨t, hrun, hrun', ht⟩ := run_to_completion hp hn hhost
  exact ⟨t, hrun, ht, hrun', complete_pending op t⟩

section Poll

variable {s : State} {rest : List HostAction}

theorem step_of_poll (hdue : ∀ p, s.pending = some p → p.left ≠ 0) (hn : s.inReset = false)
    (hr : s.requests = .poll :: rest) : step s = .next (pollOnce { serving s with requests := rest }) :=
  (step_of_action hdue hr).trans (hostActs_poll (s := { serving s with requests := rest }) hn)

/-- While not busy `poll` ends in the step that serves it. -/
theorem step_of_poll_idle (hp : s.pending = none) (hn : s.inReset = false) (hr : s.requests = .poll :: rest) :
    ∃ t, step s = .next t ∧ t.requests = rest ∧ t.pending = none := by
  have hdue : ∀ p, s.pending = some p → p.left ≠ 0 := by simp [hp]
  refine ⟨_, step_of_poll hdue hn hr, ?_⟩
  rw [serving_of_none hp, pollOnce_idle (s := { s with requests := rest }) hp]
  exact ⟨rfl, hp⟩

/-- While the operation runs on `poll` stands again, one step nearer to the operation's end. -/
theorem step_of_poll_running {op : Operation} {n : Nat} (hp : s.pending = some ⟨op, n + 1⟩) (hn : s.inReset = false)
    (hr : s.requests = .poll :: rest) :
    ∃ t, step s = .next t ∧ t.pending = some ⟨op, n⟩ ∧ t.inReset = false ∧ t.requests = .poll :: rest := by
  have hdue : ∀ p, s.pending = some p → p.left ≠ 0 := by simp [hp]
  have hbusy : (serving s).pending = some ⟨op, n⟩ := by simp [serving, hp]
  refine ⟨_, step_of_poll hdue hn hr, ?_⟩
  rw [pollOnce_busy (s := { serving s with requests := rest }) hbusy]
  exact ⟨hbusy, hn, rfl⟩

end Poll

/-- Settles O42: each busy step asks again, the completion serves nothing, and the poll after it is the last. -/
theorem pollEnds : Obligations.PollEnds := by
  intro n s op rest hp hn hr
  induction n generalizing s with
  | zero =>
    obtain ⟨t, hstep, hrest, hidle⟩ := step_of_poll_idle (complete_pending op s) ((complete_inReset op s).trans hn)
      ((complete_requests op s).trans hr)
    exact ⟨t, ((run_succ 1 (step_of_due hp)).trans (run_succ 0 hstep)).trans (run_zero t), hrest, hidle⟩
  | succ n ih =>
    obtain ⟨t, hstep, htp, htn, htr⟩ := step_of_poll_running hp hn hr
    obtain ⟨u, hrun, hu⟩ := ih t htp htn htr
    exact ⟨u, (run_succ (n + 2) hstep).trans hrun, hu⟩

end Sys2Proof.Machine
end

section
/-! PROOFS. Mixes compose at whole tables, and every round has an inverse (40_arx_primitive.md R103). -/

namespace Sys2Proof.Machine

/-! Composition -/

/-- A round's index matters only through its rotation amount. -/
theorem arxRound_add_table (ab : Word × Word) (p i : Nat) : arxRound ab (16 * p + i) = arxRound ab i := by
  rw [arxRound, rotAmount_add_table]
  rfl

theorem mixFrom_add_table (p n : Nat) : ∀ (i : Nat) (ab : Word × Word), mixFrom (16 * p + i) n ab = mixFrom i n ab := by
  induction n with
  | zero => intro i ab; rfl
  | succ n ih =>
    intro i ab
    rw [mixFrom_succ, arxRound_add_table, Nat.add_assoc, ih, mixFrom_succ]

/-- After whole tables of rounds the rotation amounts begin again (R103 (a)). -/
theorem mix_add_table (a b : Word) (p q : Nat) :
    mix a b (16 * p + q) = mix (mix a b (16 * p)).1 (mix a b (16 * p)).2 q := by
  rw [mix, mixFrom_add, Nat.zero_add]
  exact mixFrom_add_table p q 0 _

/-- 150 is no multiple of 16, and the rounds from index 150 on rotate otherwise than those from 0 on (R103 (b)). -/
theorem mix_zero_300_ne : mix 0 0 300 ≠ mix (mix 0 0 150).1 (mix 0 0 150).2 150 := by decide +kernel

/-- Settles O8: the rotation amounts begin again after whole tables, and not after 150 rounds. -/
theorem mixComposesAtMultiplesOfSixteen : Obligations.MixComposesAtMultiplesOfSixteen :=
  ⟨mix_add_table, mix_zero_300_ne⟩

/-! The inverse of a round -/

/-- Two rotations that make a whole turn together change nothing. -/
theorem rotl64_rotl64_complement (x : Word) {r : Nat} (hpos : 1 ≤ r) (hr : r ≤ 63) :
    rotl64 (rotl64 x r) (64 - r) = x := by
  refine BitVec.eq_of_getLsbD_eq fun j hj => ?_
  rw [rotl64_getLsbD _ (by omega) hj, rotl64_getLsbD _ hr (Nat.mod_lt _ (by decide))]
  congr 1
  omega

/-- The inverse of a round as R103 (c) states it. -/
def invRound (ab : Word × Word) (i : Nat) : Word × Word :=
  let b₀ := rotl64 (ab.2 ^^^ ab.1) (64 - rotAmount i)
  (ab.1 - b₀ - 1, b₀)

theorem invRound_arxRound (ab : Word × Word) (i : Nat) : invRound (arxRound ab i) i = ab := by
  obtain ⟨hlow, hhigh⟩ := rotAmount_mem_range i
  have hrotated : rotl64 ((arxRound ab i).2 ^^^ (arxRound ab i).1) (64 - rotAmount i) = ab.2 := by
    rw [arxRound, BitVec.xor_assoc, BitVec.xor_self, BitVec.xor_zero]
    exact rotl64_rotl64_complement ab.2 (by omega) (by omega)
  rw [invRound, hrotated]
  refine Prod.ext ?_ rfl
  change ab.1 + ab.2 + 1 - ab.2 - 1 = ab.1
  ring

theorem arxRound_bijective (i : Nat) : Function.Bijective (arxRound · i) :=
  Finite.injective_iff_bijective.1 (Function.LeftInverse.injective (g := (invRound · i)) (invRound_arxRound · i))

/-- A mix is a composition of bijections. -/
theorem mix_bijective (n : Nat) : Function.Bijective fun ab : Word × Word => mix ab.1 ab.2 n := by
  induction n with
  | zero => exact Function.bijective_id
  | succ n ih =>
    have hcomp : (fun ab : Word × Word => mix ab.1 ab.2 (n + 1)) = (arxRound · n) ∘ fun ab => mix ab.1 ab.2 n :=
      funext fun ab => mix_succ ab.1 ab.2 n
    rw [hcomp]
    exact (arxRound_bijective n).comp ih

/-- Settles O9: `invRound` is the stated inverse, so each round is a bijection, and so is their composition. -/
theorem mixIsABijection : Obligations.MixIsABijection :=
  ⟨fun a b i => invRound_arxRound (a, b) i, mix_bijective⟩

/-! The fixed point and the small rounds -/

theorem rotl64_allOnes {r : Nat} (hr : r ≤ 63) : rotl64 (BitVec.allOnes 64) r = BitVec.allOnes 64 := by
  refine BitVec.eq_of_getLsbD_eq fun j hj => ?_
  rw [rotl64_getLsbD _ hr hj, BitVec.getLsbD_allOnes, BitVec.getLsbD_allOnes]
  simp [hj, Nat.mod_lt]

theorem rotl64_of_zero (r : Nat) : rotl64 0 r = 0 := by
  unfold rotl64
  split <;> simp

/-- `(0, 2^64 - 1)` is a fixed point of every round: the sum wraps to 0, and a word of ones rotates to itself. -/
theorem arxRound_fixedPoint (i : Nat) : arxRound (0, BitVec.allOnes 64) i = (0, BitVec.allOnes 64) := by
  have hr := (rotAmount_mem_range i).2
  rw [arxRound, rotl64_allOnes (by omega)]
  decide

theorem mix_fixedPoint (n : Nat) : mix 0 (BitVec.allOnes 64) n = (0, BitVec.allOnes 64) := by
  induction n with
  | zero => rfl
  | succ n ih => rw [mix_succ, ih, arxRound_fixedPoint]

theorem arxRound_to_zero (i : Nat) : arxRound (BitVec.allOnes 64, 0) i = (0, 0) := by
  rw [arxRound, rotl64_of_zero]
  decide

/-- Settles O10: `2^64 - 1` is the word of ones, whose rotations are itself; round 0 of `(0, 0)` is evaluated. -/
theorem mixFixedPointAndSmallRounds : Obligations.MixFixedPointAndSmallRounds :=
  ⟨mix_fixedPoint, arxRound_to_zero, by decide⟩

end Sys2Proof.Machine
end

section
/-! PROOFS. The opcode table as masks and patterns, and the assembler (30_encoding.md R73, R80). -/

namespace Sys2Proof

/-! The rows -/

/-- MIX's mask leaves `ARG` open. -/
theorem commandWord_and_mixMask (op arg : BitVec 8) :
    commandWord op arg &&& 0xFFFFFFFFFFFF00FF = commandWord op 0 := by
  have hmask : (0xFFFFFFFFFFFF00FF : Word) = BitVec.allOnes 48 ++ ((0 : BitVec 8) ++ BitVec.allOnes 8) := by decide
  have harg : arg &&& 0 = 0 := BitVec.and_zero
  rw [commandWord, hmask, BitVec.and_append, BitVec.and_append, BitVec.and_allOnes, harg, BitVec.and_allOnes]
  rfl

/-- Every command's word matches a row. -/
theorem exists_row_of_encode (i : Instr) : ∃ r ∈ opcodeTable, encode i &&& r.mask = r.pattern := by
  cases i
  case mix n => exact ⟨⟨"mix", 0x0001, 0xFFFFFFFFFFFF00FF⟩, by decide, commandWord_and_mixMask 0x01 n⟩
  all_goals decide

/-- A row is MIX's, with `ARG` open, or it holds one legal word. -/
theorem opcodeTable_rows : ∀ r ∈ opcodeTable,
    (r.mask = 0xFFFFFFFFFFFF00FF ∧ r.pattern = 0x0001) ∨
      (r.mask = BitVec.allOnes 64 ∧ (decode r.pattern).toOption.isSome = true) := by decide

theorem exists_command_of_toOption {d : Decoded} (h : d.toOption.isSome = true) : ∃ i, d = .command i := by
  cases d with
  | command i => exact ⟨i, rfl⟩
  | illegal why => cases h

/-- A word that matches MIX's row is a MIX, whatever its `ARG`. -/
theorem decode_of_mixRow {w : Word} (h : w &&& 0xFFFFFFFFFFFF00FF = 0x0001) : decode w = .command (.mix (argField w)) := by
  have hrsv : rsvField (w &&& 0xFFFFFFFFFFFF00FF) = rsvField w := by
    rw [rsvField, BitVec.extractLsb'_and]
    exact BitVec.and_allOnes
  have hop : opField (w &&& 0xFFFFFFFFFFFF00FF) = opField w := by
    rw [opField, BitVec.extractLsb'_and]
    exact BitVec.and_allOnes
  rw [h] at hrsv hop
  exact decode_of_opField_one hrsv.symm hop.symm

theorem exists_command_of_row {w : Word} {r : OpcodeRow} (hr : r ∈ opcodeTable) (h : w &&& r.mask = r.pattern) :
    ∃ i, decode w = .command i := by
  rcases opcodeTable_rows r hr with ⟨hmask, hpattern⟩ | ⟨hmask, hlegal⟩
  · rw [hmask, hpattern] at h
    exact ⟨_, decode_of_mixRow h⟩
  · rw [hmask, BitVec.and_allOnes] at h
    rw [h]
    exact exists_command_of_toOption hlegal

/-- No two rows agree where both their masks look. -/
theorem opcodeTable_separated : ∀ r₁ ∈ opcodeTable, ∀ r₂ ∈ opcodeTable,
    r₁.pattern &&& r₂.mask = r₂.pattern &&& r₁.mask → r₁ = r₂ := by decide

/-! The assembler -/

theorem commandWord_eq_ofNat (op arg : BitVec 8) : commandWord op arg = BitVec.ofNat 64 (256 * arg.toNat + op.toNat) := by
  have hvalue : (commandWord op arg).toNat = 256 * arg.toNat + op.toNat := by
    have hbytes := Machine.toNat_append_byte arg op
    rw [commandWord, BitVec.toNat_append, hbytes]
    simp
  rw [← hvalue, BitVec.ofNat_toNat, BitVec.setWidth_eq]

theorem wellFormed_mix_iff (n : Nat) : SourceCommand.wellFormed (.mix n) = true ↔ n ≤ 255 := decide_eq_true_iff

theorem wellFormed_start_iff (k : Nat) : SourceCommand.wellFormed (.start k) = true ↔ 1 ≤ k ∧ k ≤ 6 := by
  rw [SourceCommand.wellFormed, Bool.and_eq_true, decide_eq_true_iff, decide_eq_true_iff]
  rfl

theorem assemble_of_wellFormed {c : SourceCommand} (h : c.wellFormed = true) : assemble c = c.toInstr.map encode :=
  if_pos h

theorem assemble_of_not_wellFormed {c : SourceCommand} (h : ¬ c.wellFormed = true) : assemble c = none := if_neg h

theorem assemble_mix {n : Nat} (h : n ≤ 255) : assemble (.mix n) = some (BitVec.ofNat 64 (256 * n + 1)) := by
  have hn : (BitVec.ofNat 8 n).toNat = n := Nat.mod_eq_of_lt (by omega)
  calc assemble (.mix n)
    _ = (SourceCommand.mix n).toInstr.map encode := assemble_of_wellFormed ((wellFormed_mix_iff n).2 h)
    _ = some (commandWord 0x01 (BitVec.ofNat 8 n)) := by
      rw [SourceCommand.toInstr, if_pos (show n ≤ Config.mixMax from h)]
      rfl
    _ = some (BitVec.ofNat 64 (256 * n + 1)) := by rw [commandWord_eq_ofNat, hn]; rfl

theorem assemble_mix_of_gt {n : Nat} (h : 255 < n) : assemble (.mix n) = none :=
  assemble_of_not_wellFormed (mt (wellFormed_mix_iff n).1 (Nat.not_le_of_gt h))

theorem assemble_start : ∀ k < 7, 1 ≤ k → assemble (.start k) = some (BitVec.ofNat 64 (256 * k + 2)) := by decide

theorem assemble_start_of_out_of_range {k : Nat} (h : ¬ (1 ≤ k ∧ k ≤ 6)) : assemble (.start k) = none :=
  assemble_of_not_wellFormed (mt (wellFormed_start_iff k).1 h)

end Sys2Proof

namespace Sys2Proof.Machine

/-- Settles O5: a legal word is a command's, whose row is found, and a row's words decode; two rows that share a word would
agree where both their masks look. -/
theorem opcodeTableRowsAreDisjointAndComplete : Obligations.OpcodeTableRowsAreDisjointAndComplete := by
  refine ⟨fun w => ⟨?_, fun ⟨r, hr, h⟩ => exists_command_of_row hr h⟩, fun w r₁ hr₁ r₂ hr₂ h₁ h₂ => ?_⟩
  · rintro ⟨i, hd⟩
    rw [← encode_of_decode hd]
    exact exists_row_of_encode i
  · refine opcodeTable_separated r₁ hr₁ r₂ hr₂ ?_
    rw [← h₁, ← h₂, BitVec.and_assoc, BitVec.and_assoc, BitVec.and_comm r₁.mask]

/-- Settles O54: `mix` in range is its word as a number, `start` in range is evaluated, and the rest is the range check. -/
theorem assemblerChecksItsRanges : Obligations.AssemblerChecksItsRanges :=
  ⟨fun _ => assemble_mix, fun _ => assemble_mix_of_gt, fun k hpos hk => assemble_start k (Nat.lt_succ_of_le hk) hpos,
    fun _ => assemble_start_of_out_of_range, by decide, by decide, by decide, by decide⟩

/-- Settles O12: the constants of the parameters, read off. -/
theorem variantTableValues : Obligations.VariantTableValues := ⟨rfl, rfl, rfl, rfl⟩

end Sys2Proof.Machine
end

section
/-! PROOFS. The register window: `STATUS` field by field, reads and writes while not busy, where the window stands
(20_memory.md R50 to R58, 10_state.md R20 to R44). -/

namespace Sys2Proof.Machine

/-! `STATUS` above its two drawn fields (10_state.md R23) -/

section PackStatus

variable (busy : Bool) (ph : BitVec 2) (v : BitVec 3) (e : Bool) (c : BitVec 4)

@[simp] theorem packStatus_bit_three : (packStatus busy ph v e c).getLsbD 3 = false := by
  simp only [packStatus, BitVec.getLsbD_append]
  rfl

@[simp] theorem packStatus_bit_seven : (packStatus busy ph v e c).getLsbD 7 = false := by
  simp only [packStatus, BitVec.getLsbD_append]
  rfl

@[simp] theorem packStatus_err : (packStatus busy ph v e c).getLsbD 8 = e := by
  simp only [packStatus, BitVec.getLsbD_append]
  cases e <;> rfl

@[simp] theorem packStatus_zeros : (packStatus busy ph v e c).extractLsb' 9 3 = 0 := by
  simp (disch := decide) only [packStatus, BitVec.extractLsb'_append_eq_of_le, BitVec.extractLsb'_append_eq_right,
    Nat.reduceSub]

@[simp] theorem packStatus_ecause : (packStatus busy ph v e c).extractLsb' 12 4 = c := by
  simp (disch := decide) only [packStatus, BitVec.extractLsb'_append_eq_of_le, BitVec.extractLsb'_append_eq_right,
    Nat.reduceSub]

@[simp] theorem packStatus_high : (packStatus busy ph v e c).extractLsb' 16 48 = 0 := by
  simp (disch := decide) only [packStatus, BitVec.extractLsb'_append_eq_of_le, BitVec.extractLsb'_eq_self,
    Nat.reduceSub]

end PackStatus

/-- Settles O28: the fields of `packStatus`, each with what `statusWord` puts into it. -/
theorem statusLayout : Obligations.StatusLayout := by
  intro s
  refine ⟨statusWord_bit_zero s, (packStatus_phase ..).trans ?_, packStatus_bit_three .., (packStatus_variant ..).trans ?_,
    packStatus_bit_seven .., packStatus_err .., packStatus_zeros .., (packStatus_ecause ..).trans ?_, packStatus_high ..,
    by decide, by decide⟩
  · cases s.wrapper <;> rfl
  · cases s.wrapper <;> rfl
  · cases s.error <;> rfl

/-! Reads and writes while not busy -/

/-- The registers of the window in the order of their offsets (R51). -/
def windowRegs : List Reg :=
  [.id, .ctrl, .status, .seed, .len, .din0, .din1, .cmd, .a, .b, .out0, .out1, .remain, .lenl, .rot0, .rot1, .errinfo]

section Idle

variable {s : State} {rest : List HostAction}

theorem step_of_read_idle {off size : BitVec 8} (hp : s.pending = none) (hn : s.inReset = false)
    (hr : s.requests = .access (.read off size) :: rest) :
    step s = .next (memRead off size { s with requests := rest }) := by
  have hdue : ∀ p, s.pending = some p → p.left ≠ 0 := by simp [hp]
  rw [step_of_read hn hdue hr, serving_of_none hp]

theorem step_of_write_idle {off size : BitVec 8} {v : Word} (hp : s.pending = none) (hn : s.inReset = false)
    (hr : s.requests = .access (.write off size v) :: rest) :
    step s = memWrite off size v { s with requests := rest } := by
  have hdue : ∀ p, s.pending = some p → p.left ≠ 0 := by simp [hp]
  rw [step_of_write hn hdue hr, serving_of_none hp]

/-- A write while not busy, to any register but `STATUS` and `CMD`, is `storeReg`. -/
theorem step_of_store {r : Reg} {v : Word} (hp : s.pending = none) (hn : s.inReset = false)
    (hr : s.requests = .access (.write r.offset 8 v) :: rest) (hs : r ≠ .status) (hc : r ≠ .cmd) :
    step s = .next (storeReg r v { s with requests := rest, response := some (.written false) }) :=
  (step_of_write_idle hp hn hr).trans (memWrite_idle (s := { s with requests := rest }) r v hp hs hc)

end Idle

/-- Settles O26: the port serves the read, and the offset names a register, whose value it answers, or is reserved. -/
theorem readsReturnTheRegisters : Obligations.ReadsReturnTheRegisters := by
  rintro s rest off v hp hn hr (hentry | ⟨ha, hge, rfl⟩)
  case inl =>
    have hlisted : (off, v) ∈ windowRegs.map fun r => (r.offset, readReg r s) := by
      simp only [windowRegs, List.map, readReg_id, readReg_ctrl, readReg_rot0, readReg_rot1]
      exact hentry
    obtain ⟨r, _, heq⟩ := List.mem_map.1 hlisted
    cases heq
    rw [step_of_read_idle hp hn hr, memRead_idle (s := { s with requests := rest }) r hp]
    rfl
  case inr =>
    rw [step_of_read_idle hp hn hr, memRead_reserved _ ha (regAt_of_reserved ha hge)]
    rfl

/-- The registers that ignore a write (10_state.md R38). -/
def readOnlyRegs : List Reg := [.id, .out0, .out1, .remain, .lenl, .rot0, .rot1, .errinfo]

theorem storeReg_of_mem_readOnlyRegs {r : Reg} (v : Word) (s : State) (h : r ∈ readOnlyRegs) :
    storeReg r v s = s ∧ r ≠ .status ∧ r ≠ .cmd := by
  revert r
  simp [readOnlyRegs, storeReg]

/-- Settles O29: the port serves the write, and the offset names a register, in which `storeReg` stores, or is reserved. -/
theorem writesStoreTheirRegister : Obligations.WritesStoreTheirRegister := by
  rintro s rest off v hp hn hr t rfl
  have hstore (r : Reg) (hs : r ≠ .status) (hc : r ≠ .cmd) (hoff : off = r.offset) :
      step s = .next (storeReg r v { s with requests := rest, response := some (.written false) }) :=
    step_of_store hp hn (hoff ▸ hr) hs hc
  refine ⟨hstore .ctrl (by decide) (by decide), hstore .seed (by decide) (by decide), hstore .len (by decide) (by decide),
    hstore .din0 (by decide) (by decide), hstore .din1 (by decide) (by decide), hstore .a (by decide) (by decide),
    hstore .b (by decide) (by decide), ?ignored⟩
  case ignored =>
    rintro (hlisted | ⟨ha, hge⟩)
    · obtain ⟨r, hmem, hoff⟩ := List.mem_map.1 (show off ∈ readOnlyRegs.map Reg.offset from hlisted)
      obtain ⟨hkept, hs, hc⟩ := storeReg_of_mem_readOnlyRegs v _ hmem
      rw [hstore r hs hc hoff.symm, hkept]
    · rw [step_of_write_idle hp hn hr]
      exact memWrite_reserved_idle (s := { s with requests := rest }) v ha (regAt_of_reserved ha hge) hp

/-- Settles O30: the port serves the read, whose frame is `memRead_frame`, and which records nothing. -/
theorem readsHaveNoSideEffects : Obligations.ReadsHaveNoSideEffects := by
  intro s t rest off hn hdue ha hr hstep
  cases (step_of_read hn hdue hr).symm.trans hstep
  have herror := memRead_error { serving s with requests := rest } (accessWellFormed_of_aligned ha)
  have hframe := memRead_frame off 8 { serving s with requests := rest }
  rw [herror] at hframe
  exact hframe

/-! The registers while not busy, and the window's place -/

theorem variantNumber_range (v : Variant) : 1 ≤ variantNumber v ∧ variantNumber v ≤ 6 := by
  cases v <;> decide

theorem causeCode_eq_zero_iff (e : Option ErrorRecord) : causeCode e = 0 ↔ e.isSome = false := by
  cases e with
  | none => simp [causeCode]
  | some e =>
    have hcode : e.cause.code ≠ 0 := by cases e.cause <;> decide
    exact iff_of_false hcode (by simp)

/-- Settles O36: the relations of `VARIANT`, `ERR`, `ECAUSE` and `ERRINFO` hold of every state, and the invariant gives the
others. -/
theorem registersWhileNotBusy : Obligations.RegistersWhileNotBusy := by
  intro s hi _
  obtain ⟨hidle, hdone, hle⟩ := hi.progress
  refine ⟨fun h => ⟨?novariant, (hidle h).1⟩, ?variant, hdone, causeCode_eq_zero_iff s.error, ?info, hle⟩
  case novariant =>
    revert h
    cases s.wrapper <;> simp [Wrapper.phaseCode, Wrapper.variantCode]
  case variant =>
    cases s.wrapper with
    | idle => simp [Wrapper.phaseCode]
    | absorb v => exact fun _ => variantNumber_range v
    | done v => exact fun _ => variantNumber_range v
  case info =>
    cases s.error <;> simp [errorInfo]

/-- Settles O53: inside the window the offset is the distance from `BASE`, and both sides of it are outside. -/
theorem windowIsMappedAtBase : Obligations.WindowIsMappedAtBase := by
  refine ⟨fun off => ?inside, fun address houtside => ?outside⟩
  case inside =>
    have hrange : Config.base ≤ Config.base + off.toNat ∧ Config.base + off.toNat < Config.base + Config.windowBytes :=
      ⟨Nat.le_add_right _ _, Nat.add_lt_add_left off.isLt _⟩
    rw [windowOffset, if_pos hrange, Nat.add_sub_cancel_left, BitVec.ofNat_toNat, BitVec.setWidth_eq]
  case outside =>
    exact if_neg fun ⟨hlow, hhigh⟩ => houtside.elim (Nat.not_lt_of_ge hlow) (Nat.not_le_of_gt hhigh)

end Sys2Proof.Machine
end

section
/-! PROOFS. Chunk words and the bytes a BLOCK absorbs (20_memory.md R52, R53, 41_hash_wrapper.md R129, R130). -/

namespace Sys2Proof.Machine

/-- Settles O52: lane by lane, and a word is its lanes; the example is evaluated. -/
theorem chunkWordsAreLittleEndian : Obligations.ChunkWordsAreLittleEndian :=
  ⟨fun bs _ _ ht => byteLane_le64 bs ht, le64_bytesLE, by decide⟩

/-- With the byte order fixed, a chunk word is `LE64`. -/
theorem chunkWord_eq (bs : List Byte) : chunkWord bs = le64 bs := rfl

/-- A lane under a mask that keeps the lanes below `n`. -/
theorem byteLane_and_mask {mask : Word} {n : Nat} (hmask : ∀ t < 8, byteLane mask t = if t < n then 0xFF else 0x00)
    (w : Word) {t : Nat} (ht : t < 8) : byteLane (w &&& mask) t = if t < n then byteLane w t else 0 := by
  rw [byteLane_and, hmask t ht]
  split
  case isTrue => exact BitVec.and_allOnes
  case isFalse => exact BitVec.and_zero

/-- Words that agree in the lanes a mask keeps are equal under it. -/
theorem and_mask_eq {mask : Word} {n : Nat} (hmask : ∀ t < 8, byteLane mask t = if t < n then 0xFF else 0x00)
    {w w' : Word} (h : ∀ t < 8, t < n → byteLane w t = byteLane w' t) : w &&& mask = w' &&& mask := by
  refine eq_of_byteLane_eq fun t ht => ?_
  rw [byteLane_and_mask hmask w ht, byteLane_and_mask hmask w' ht]
  split
  case isTrue hkept => exact h t ht hkept
  case isFalse => rfl

/-- Byte `t` of the chunk that `DIN0` and `DIN1` hold. -/
def dinByte (din0 din1 : Word) (t : Nat) : Byte := if t < 8 then byteLane din0 t else byteLane din1 (t - 8)

/-- Chunks that agree in their first `k` bytes are equal under the mask of `k` bytes (R130). -/
theorem and_chunkMask_eq {k : Nat} {d0 d1 e0 e1 : Word} (h : ∀ t < k, dinByte d0 d1 t = dinByte e0 e1 t) :
    d0 &&& (chunkMask k).1 = e0 &&& (chunkMask k).1 ∧ d1 &&& (chunkMask k).2 = e1 &&& (chunkMask k).2 := by
  constructor
  case left =>
    refine and_mask_eq (fun t => byteLane_chunkMask_fst k) fun t ht hkept => ?_
    simpa [dinByte, ht] using h t hkept
  case right =>
    refine and_mask_eq (fun t => byteLane_chunkMask_snd k) fun t ht hkept => ?_
    simpa [dinByte] using h (8 + t) (by omega)

/-- Settles O48: the mask leaves nothing of the bytes past the chunk's end. -/
theorem dirtyPaddingIsNotAbsorbed : Obligations.DirtyPaddingIsNotAbsorbed := by
  intro d0 d1 e0 e1 remain v a b u h
  obtain ⟨hfirst, hsecond⟩ := and_chunkMask_eq (k := chunkSize remain) h
  rw [complete_block, complete_block]
  dsimp only
  rw [hfirst, hsecond]

/-- With seeding disabled the seed is not looked at (R128). -/
theorem seedState_disabled (seed : BitVec 32) : seedState false seed = (0, 0) := rfl

/-- Settles O49: START samples the switch, and with the switch off the seeded state is `(0, 0)`. -/
theorem disabledSeedIsIgnored : Obligations.DisabledSeedIsIgnored := by
  intro v s u sd op op' hoff hop hop'
  have hsame (seed : BitVec 32) : complete (.start v false seed s.len) u = complete (.start v false 0 s.len) u := by
    rw [complete_start, complete_start, seedState_disabled, seedState_disabled]
  cases hop
  cases hop'
  rw [hoff]
  exact (hsame s.seed).trans (hsame sd).symm

end Sys2Proof.Machine
end

section
/-! PROOFS. The wrapper computes the hash (41_hash_wrapper.md R137). -/

namespace Sys2Proof.Machine

theorem chunkOf_length (key : List Byte) (m : Nat) : (chunkOf key m).length = min (key.length - 16 * m) 16 := by
  rw [chunkOf, List.length_take, List.length_drop, Nat.min_comm]

theorem lt_chunkCount_iff (len m : Nat) : m < chunkCount len ↔ 16 * m < len := by
  rw [chunkCount]
  omega

/-- A chunk's two words hold its bytes, and 0 past its end. -/
theorem dinByte_chunkWords (c : List Byte) {t : Nat} (ht : t < 16) :
    dinByte (chunkWord (c.take 8)) (chunkWord (c.drop 8)) t = c.getD t 0 := by
  rw [dinByte, chunkWord_eq, chunkWord_eq]
  split
  case isTrue hlow =>
    rw [byteLane_le64 _ hlow, List.getD_eq_getElem?_getD, List.getElem?_take_of_lt hlow, List.getD_eq_getElem?_getD]
  case isFalse hhigh =>
    rw [byteLane_le64 _ (by omega), List.getD_eq_getElem?_getD, List.getElem?_drop, List.getD_eq_getElem?_getD,
      Nat.add_sub_cancel' (Nat.le_of_not_lt hhigh)]

/-- When `DIN0` and `DIN1` hold a chunk's bytes, the mask leaves the chunk's two words (R53, R130). -/
theorem and_chunkMask_of_chunk {d0 d1 : Word} {c : List Byte} (hlen : c.length ≤ 16)
    (h : ∀ t < c.length, dinByte d0 d1 t = c.getD t 0) :
    d0 &&& (chunkMask c.length).1 = chunkWord (c.take 8) ∧ d1 &&& (chunkMask c.length).2 = chunkWord (c.drop 8) := by
  obtain ⟨hfirst, hsecond⟩ := and_chunkMask_eq fun t ht => (h t ht).trans (dinByte_chunkWords c (ht.trans_le hlen)).symm
  rw [hfirst, hsecond, chunkWord_eq, chunkWord_eq, le64_and_mask _ fun t => byteLane_chunkMask_fst _,
    le64_and_mask _ fun t => byteLane_chunkMask_snd _]
  exact ⟨by rw [List.take_of_length_le (List.length_take_le' ..)],
    by rw [List.take_of_length_le (by rw [List.length_drop])]⟩

section Absorbing

variable {v : Variant} {key : List Byte} {start : Word × Word} {m : Nat} {s : State}

theorem Absorbing.toNat_remain (h : Absorbing v key start m s) (hlen : key.length < 2 ^ 64) :
    s.remain.toNat = key.length - 16 * m := by
  rw [h.remaining]
  exact Nat.mod_eq_of_lt (by omega)

theorem Absorbing.chunkSize_eq (h : Absorbing v key start m s) (hlen : key.length < 2 ^ 64) :
    chunkSize s.remain = (chunkOf key m).length := by
  rw [Machine.chunkSize_eq, h.toNat_remain hlen, chunkOf_length]

/-- BLOCK with the next chunk moves the accumulator by one chunk (R129, R137). -/
theorem Absorbing.block (h : Absorbing v key start m s) (hlen : key.length < 2 ^ 64)
    (hdin : ∀ t < (chunkOf key m).length, dinByte s.din0 s.din1 t = (chunkOf key m).getD t 0) :
    Absorbing v key start (m + 1) (complete (.block s.din0 s.din1 s.remain v s.a s.b) s) where
  phase := h.phase
  length := h.length
  remaining := by
    refine BitVec.eq_of_toNat_eq ?_
    rw [complete_block_remain, toNat_remainAfterBlock, h.toNat_remain hlen, BitVec.toNat_ofNat,
      Nat.mod_eq_of_lt (by omega)]
    omega
  accumulator := by
    have hle : (chunkOf key m).length ≤ 16 := by rw [chunkOf_length]; exact Nat.min_le_right _ _
    obtain ⟨hfirst, hsecond⟩ := and_chunkMask_of_chunk hle hdin
    have hmask := h.chunkSize_eq hlen
    change absorbWords v s.a s.b (s.din0 &&& (chunkMask (chunkSize s.remain)).1)
      (s.din1 &&& (chunkMask (chunkSize s.remain)).2) = _
    rw [hmask, hfirst, hsecond, hashAfter, ← h.accumulator]

theorem Absorbing.remain_ne_zero (h : Absorbing v key start m s) (hlen : key.length < 2 ^ 64)
    (hm : m < chunkCount key.length) : s.remain ≠ 0 := by
  have hremain := h.toNat_remain hlen
  rw [lt_chunkCount_iff] at hm
  bv_omega

theorem Absorbing.remain_eq_zero (h : Absorbing v key start (chunkCount key.length) s) : s.remain = 0 := by
  have hnone : key.length - 16 * chunkCount key.length = 0 := by
    rw [chunkCount]
    omega
  rw [h.remaining, hnone]
  rfl

end Absorbing

/-- START stands where the hash stands before the first chunk (R127). -/
theorem absorbing_start (v : Variant) (key : List Byte) (seed : BitVec 32) (useSeed : Bool) (u : State) :
    Absorbing v key (seedState useSeed seed) 0 (complete (.start v useSeed seed (BitVec.ofNat 64 key.length)) u) :=
  ⟨rfl, rfl, rfl, rfl⟩

/-- The hash finalizes the accumulator after the last chunk (R137). -/
theorem hashOf_eq (v : Variant) (key : List Byte) (seed : BitVec 32) (useSeed : Bool) :
    hashOf v key seed useSeed =
      finalizePair v (BitVec.ofNat 64 key.length)
        (hashAfter v key (seedState useSeed seed) (chunkCount key.length)).1
        (hashAfter v key (seedState useSeed seed) (chunkCount key.length)).2 := rfl

/-- FINISH after the last chunk puts the hash in `OUT0` and `OUT1` (R131). -/
theorem Absorbing.finish {v : Variant} {key : List Byte} {seed : BitVec 32} {useSeed : Bool} {s : State}
    (h : Absorbing v key (seedState useSeed seed) (chunkCount key.length) s) :
    ((complete (.finish s.lenl v s.a s.b) s).out0, (complete (.finish s.lenl v s.a s.b) s).out1) =
      hashOf v key seed useSeed := by
  rw [hashOf_eq, ← h.accumulator, ← h.length]
  rfl

/-- Settles O43: START, BLOCK and FINISH one by one, each with the operands that the sequence check lets it sample. -/
theorem wrapperComputesTheHash : Obligations.WrapperComputesTheHash := by
  intro v key seed useSeed hlen
  refine ⟨absorbing_start v key seed useSeed, fun m s op h hm hdin hop => ?block,
    fun m s h hm => ⟨_, sampleOf_block h.phase (h.remain_ne_zero hlen hm)⟩,
    fun s h => ⟨_, sampleOf_finish h.phase h.remain_eq_zero, h.finish, rfl⟩⟩
  case block =>
    cases (sampleOf_block h.phase (h.remain_ne_zero hlen hm)).symm.trans hop
    exact h.block hlen hdin

end Sys2Proof.Machine
end

section
/-! PROOFS. What a digest depends on: variants 5 and 6, the xor of the chunks, the length (41_hash_wrapper.md R121, R126,
R132). -/

namespace Sys2Proof.Machine

/-! Variants 5 and 6 -/

/-- Variants 5 and 6 absorb alike. -/
theorem hashAfter_v6 (key : List Byte) (start : Word × Word) (m : Nat) :
    hashAfter .v6 key start m = hashAfter .v5 key start m := by
  induction m with
  | zero => rfl
  | succ m ih => rw [hashAfter, ih]; rfl

/-- Variant 6 collapses what variant 5 finalizes. -/
theorem finalizePair_v6 (lenl a b : Word) : finalizePair .v6 lenl a b = mix (finalizePair .v5 lenl a b).1 0 12 := by
  simp [finalizePair_eq]

/-- Settles O44: variants 5 and 6 absorb alike, and differ in the collapse. -/
theorem variantSixCollapsesVariantFive : Obligations.VariantSixCollapsesVariantFive := by
  intro key seed useSeed
  rw [hashOf_eq, hashAfter_v6, finalizePair_v6, ← hashOf_eq]

/-! Zero bytes at the end of a message -/

theorem getD_append_zeros (key : List Byte) (n i : Nat) : (key ++ List.replicate n 0).getD i 0 = key.getD i 0 := by
  obtain hin | hout := Nat.lt_or_ge i key.length
  case inl => rw [List.getD_append _ _ _ _ hin]
  case inr =>
    rw [List.getD_append_right _ _ _ _ hout, List.getD_eq_getElem?_getD, List.getElem?_getD_replicate_default_eq,
      List.getD_eq_default key 0 hout]

/-- Byte `t` of chunk `m` is byte `16 * m + t` of the message. -/
theorem chunkOf_getD (key : List Byte) (m : Nat) {t : Nat} (ht : t < 16) :
    (chunkOf key m).getD t 0 = key.getD (16 * m + t) 0 := by
  rw [chunkOf, List.getD_eq_getElem?_getD, List.getElem?_take_of_lt ht, List.getElem?_drop, List.getD_eq_getElem?_getD]

/-- Two words are the 16 bytes they hold. -/
theorem eq_of_dinByte_eq {d0 d1 e0 e1 : Word} (h : ∀ t < 16, dinByte d0 d1 t = dinByte e0 e1 t) : d0 = e0 ∧ d1 = e1 := by
  constructor
  case left =>
    refine eq_of_byteLane_eq fun t ht => ?_
    simpa [dinByte, ht] using h t (by omega)
  case right =>
    refine eq_of_byteLane_eq fun t ht => ?_
    simpa [dinByte] using h (8 + t) (by omega)

/-- Missing bytes count as 0, so zero bytes at the end change no chunk's words (R52). -/
theorem chunkWords_append_zeros (key : List Byte) (n m : Nat) :
    chunkWord ((chunkOf (key ++ List.replicate n 0) m).take 8) = chunkWord ((chunkOf key m).take 8) ∧
      chunkWord ((chunkOf (key ++ List.replicate n 0) m).drop 8) = chunkWord ((chunkOf key m).drop 8) := by
  refine eq_of_dinByte_eq fun t ht => ?_
  rw [dinByte_chunkWords _ ht, dinByte_chunkWords _ ht, chunkOf_getD _ _ ht, chunkOf_getD _ _ ht, getD_append_zeros]

theorem hashAfter_append_zeros (v : Variant) (key : List Byte) (n : Nat) (start : Word × Word) (m : Nat) :
    hashAfter v (key ++ List.replicate n 0) start m = hashAfter v key start m := by
  induction m with
  | zero => rfl
  | succ m ih =>
    obtain ⟨hfirst, hsecond⟩ := chunkWords_append_zeros key n m
    rw [hashAfter, hashAfter, ih, hfirst, hsecond]

/-! Variant 1 -/

/-- The xor of the first `count` chunks, as the two words it is absorbed in (R121). -/
def chunkXor (key : List Byte) (count : Nat) : Word × Word :=
  (List.range count).foldl
    (fun ab m => (ab.1 ^^^ le64 ((chunkOf key m).take 8), ab.2 ^^^ le64 ((chunkOf key m).drop 8))) (0, 0)

theorem chunkXor_succ (key : List Byte) (m : Nat) :
    chunkXor key (m + 1) =
      ((chunkXor key m).1 ^^^ le64 ((chunkOf key m).take 8), (chunkXor key m).2 ^^^ le64 ((chunkOf key m).drop 8)) := by
  rw [chunkXor, List.range_succ, List.foldl_append]
  rfl

/-- Variant 1 absorbs by xor alone, so the order of its chunks does not matter. -/
theorem hashAfter_v1 (key : List Byte) (start : Word × Word) (m : Nat) :
    hashAfter .v1 key start m = (start.1 ^^^ (chunkXor key m).1, start.2 ^^^ (chunkXor key m).2) := by
  induction m with
  | zero => exact Prod.ext BitVec.xor_zero.symm BitVec.xor_zero.symm
  | succ m ih =>
    rw [hashAfter, ih, absorbWords_of_no_rounds rfl, chunkXor_succ, chunkWord_eq, chunkWord_eq, BitVec.xor_assoc,
      BitVec.xor_assoc]

/-- Variant 1 does not fold the length. -/
theorem finalizePair_v1 (lenl a b : Word) : finalizePair .v1 lenl a b = mix a b 12 := by simp [finalizePair_eq]

theorem hashOf_v1 (key : List Byte) (seed : BitVec 32) (useSeed : Bool) :
    hashOf .v1 key seed useSeed =
      mix ((seedState useSeed seed).1 ^^^ (chunkXor key (chunkCount key.length)).1)
        ((seedState useSeed seed).2 ^^^ (chunkXor key (chunkCount key.length)).2) 12 := by
  rw [hashOf_eq, finalizePair_v1, hashAfter_v1]

theorem chunkOf_eq_nil {key : List Byte} {m : Nat} (h : chunkCount key.length ≤ m) : chunkOf key m = [] := by
  have hend : key.length ≤ 16 * m := Nat.le_of_not_lt fun hin => Nat.not_lt_of_ge h ((lt_chunkCount_iff _ _).2 hin)
  rw [chunkOf, List.drop_of_length_le hend, List.take_nil]

/-- Past the message's end there is nothing to xor. -/
theorem chunkXor_of_ge (key : List Byte) (k : Nat) :
    chunkXor key (chunkCount key.length + k) = chunkXor key (chunkCount key.length) := by
  induction k with
  | zero => rfl
  | succ k ih =>
    rw [← Nat.add_assoc, chunkXor_succ, chunkOf_eq_nil (Nat.le_add_right _ k), ih]
    exact Prod.ext BitVec.xor_zero BitVec.xor_zero

/-- Settles O45: the digest is a function of the chunks' xor, in which zero bytes count for nothing. -/
theorem variantOneSeesOnlyTheXorOfChunks : Obligations.VariantOneSeesOnlyTheXorOfChunks := by
  refine ⟨fun key key' seed useSeed => ?same, fun key n seed useSeed => ?padded⟩
  case same =>
    intro xorOf h
    have hxor : chunkXor key (chunkCount key.length) = chunkXor key' (chunkCount key'.length) := h
    rw [hashOf_v1, hashOf_v1, hxor]
  case padded =>
    obtain ⟨k, hk⟩ : ∃ k, chunkCount (key ++ List.replicate n 0).length = chunkCount key.length + k := by
      refine Nat.exists_eq_add_of_le ?_
      rw [List.length_append]
      exact Nat.div_le_div_right (by omega)
    rw [hashOf_eq, hashAfter_append_zeros, hk, hashAfter_v1, chunkXor_of_ge, finalizePair_v1, hashOf_v1]

/-! The length fold -/

theorem finalizePair_of_fold {v : Variant} (hv : v ∈ [Variant.v2, .v3, .v4, .v5]) (lenl a b : Word) :
    finalizePair v lenl a b = mix (a ^^^ lenl) b 12 := by
  revert v
  simp [finalizePair_eq]

/-- Settles O46: padded within its one chunk, a message leaves the accumulator as it does without the zeros, and the final mix,
a bijection, keeps the folded lengths apart. -/
theorem lengthFoldSeparatesPaddedMessages : Obligations.LengthFoldSeparatesPaddedMessages := by
  intro v key n seed useSeed hv hkey hn hchunk heq
  have hpos : 0 < key.length := List.length_pos_iff.2 hkey
  have hcount : chunkCount key.length = 1 := by rw [chunkCount]; omega
  have hcount' : chunkCount (key ++ List.replicate n 0).length = 1 := by
    rw [chunkCount, List.length_append, List.length_replicate]
    omega
  rw [hashOf_eq, hashOf_eq, hcount, hcount', hashAfter_append_zeros, finalizePair_of_fold hv, finalizePair_of_fold hv] at heq
  have hfolded := (mix_bijective 12).injective (a₁ := (_, _)) (a₂ := (_, _)) heq
  have hlength := congrArg BitVec.toNat ((BitVec.xor_right_inj _).1 (congrArg Prod.fst hfolded))
  rw [BitVec.toNat_ofNat, BitVec.toNat_ofNat, List.length_append, List.length_replicate] at hlength
  omega

end Sys2Proof.Machine
end
